-- ==== Sys2Proof/Word.lean ====
section
/-! DEFINITION. The words of the machine (spec/00_scope.md R6, R10): bit vectors of the widths the
spec gives, bit 0 least significant, every value unsigned. -/

namespace Sys2Proof

/-- WORD: a memory cell, a micro-instruction, a macro instruction (R6). -/
abbrev Word := BitVec 16

/-- An index of general memory; the width of AR and CC (R6). -/
abbrev GenAddr := BitVec 11

/-- An index of microcode memory; the width of MPC (R6). -/
abbrev MicroAddr := BitVec 8

/-- The status word SR (R6, R36). -/
abbrev Status := BitVec 13

/-- The buffer register BR: 16 result bits and the carry-out in bit 16 (R6, R26). -/
abbrev Buffer := BitVec 17

/-- The data of a device (R6, R47). -/
abbrev Byte := BitVec 8

/-- The index of a device, 0 to 15 (R6, R47). -/
abbrev DevIndex := BitVec 4

/-- Text, as the assembler, the loaders and the disassembler handle it. -/
abbrev Text := List Char

end Sys2Proof
end

