-- ==== Sys2Proof/Syntax.lean ====
section
/-! DEFINITION. The instructions: one constructor for each row of spec/opcode_table.json, eight micro
rows (spec/30_encoding.md R90 to R97) and twenty-eight macro rows (R98 to R104, spec/40_macro_decoder.md
R131). -/

namespace Sys2Proof

/-- LEFT, the left-operand select of OP0 (R91, R195). -/
inductive LeftSel where
  | none | a | sr | cr
  deriving DecidableEq, Repr

/-- RIGHT, the right-operand select of OP0 (R91, R196). -/
inductive RightSel where
  | none | dr | cr | cc
  deriving DecidableEq, Repr

/-- INV, the one's-complement select of OP0 (R91, R197). -/
inductive Inv where
  | none | left | right
  deriving DecidableEq, Repr

/-- OP, the ALU operation of OP0 (R91, R198). -/
inductive AluOp where
  | sum | sumPlusOne | and
  deriving DecidableEq, Repr

/-- SHIFT of OP0 (R91, R191 to R193). -/
inductive Shift where
  | none | right | left
  deriving DecidableEq, Repr

/-- MEM, the memory access of OP0 (R91, R194). -/
inductive Mem where
  | none | read | write
  deriving DecidableEq, Repr

/-- A two-bit field with three listed codes: code 11 is in no list of the source, is carried into the
decoded term and judged at execution (R95, R96). -/
inductive Code (α : Type) where
  | listed (c : α)
  | unlisted
  deriving DecidableEq, Repr

/-- CARRY, the carry update of OP1 (R92, R224). -/
inductive CarrySel where
  | keep | fromBuffer | clear | set
  deriving DecidableEq, Repr

/-- ZN, the zero/negative update of OP1 (R92, R225). -/
inductive ZnSel where
  | none | zero | negative | both
  deriving DecidableEq, Repr

/-- WB, the write-back destination of OP1 (R92, R226); `reserved` is code 6, which writes nothing. -/
inductive WbSel where
  | none | ar | dr | cr | cc | a | reserved | all
  deriving DecidableEq, Repr

/-- REG, the register selector of CTRL (R93, R251). -/
inductive CtrlReg where
  | sr | dr | cr | a
  deriving DecidableEq, Repr

/-- The fields of OP1 that only the status path consults (R92, R223). -/
structure StatusFields where
  carry : CarrySel
  zn : ZnSel
  wb : WbSel
  deriving DecidableEq, Repr

/-- The I/O control flags of OP1, bits 8 to 11 (R92, R227). -/
structure IoFlags where
  conn : Bool
  rdy : Bool
  di : Bool
  ei : Bool
  deriving DecidableEq, Repr

/-- The decoded micro-instruction word in its three shapes, as the reference decoder of R95 gives it:
every field that is not spare is carried, consulted or not. -/
inductive MicroTerm where
  | op0 (left : LeftSel) (right : RightSel) (inv : Code Inv) (op : Code AluOp) (shift : Code Shift)
      (mem : Code Mem)
  | op1 (io : IoFlags) (halt : Bool) (st : StatusFields)
  | ctrl (cmp : Bool) (reg : CtrlReg) (bit : BitVec 4) (target : MicroAddr)
  deriving DecidableEq, Repr

/-- The instructions of the opcode table. An OP1 word belongs to the row of its path: the halt bit
first, then the LOWEST set I/O flag (log 5), else the status path; fields its path masks are carried. -/
inductive Instr where
  /-- MC_OP0 (R190). -/
  | mcOp0 (left : LeftSel) (right : RightSel) (inv : Code Inv) (op : Code AluOp) (shift : Code Shift)
      (mem : Code Mem)
  /-- MC_HALT (R221); `io` and `st` are masked. -/
  | mcHalt (io : IoFlags) (st : StatusFields)
  /-- MC_IO_CONN (R230), with the flags above it; `st` is masked. -/
  | mcIoConn (rdy di ei : Bool) (st : StatusFields)
  /-- MC_IO_RDY (R228) without CONN, with the flags above it; `st` is masked. -/
  | mcIoRdy (di ei : Bool) (st : StatusFields)
  /-- MC_IO_DI (R229) without CONN and RDY, perhaps with EI; `st` is masked. -/
  | mcIoDi (ei : Bool) (st : StatusFields)
  /-- MC_IO_EI (R229) alone; `st` is masked. -/
  | mcIoEi (st : StatusFields)
  /-- MC_FLAGS_WB (R220, R224 to R226). -/
  | mcFlagsWb (st : StatusFields)
  /-- MC_CTRL (R250). -/
  | mcCtrl (cmp : Bool) (reg : CtrlReg) (bit : BitVec 4) (target : MicroAddr)
  /-- ISZ (R143). -/
  | isz (indirect : Bool) (addr : GenAddr)
  /-- AND (R144). -/
  | and (indirect : Bool) (addr : GenAddr)
  /-- JSR (R145). -/
  | jsr (indirect : Bool) (addr : GenAddr)
  /-- MOV (R146). -/
  | mov (indirect : Bool) (addr : GenAddr)
  /-- ADD (R147). -/
  | add (indirect : Bool) (addr : GenAddr)
  /-- ADC (R148). -/
  | adc (indirect : Bool) (addr : GenAddr)
  /-- SUB (R149). -/
  | sub (indirect : Bool) (addr : GenAddr)
  /-- BCS (R150). -/
  | bcs (indirect : Bool) (addr : GenAddr)
  /-- BPL (R151). -/
  | bpl (indirect : Bool) (addr : GenAddr)
  /-- BMI (R152). -/
  | bmi (indirect : Bool) (addr : GenAddr)
  /-- BEQ (R153). -/
  | beq (indirect : Bool) (addr : GenAddr)
  /-- BR (R154). -/
  | br (indirect : Bool) (addr : GenAddr)
  /-- CLF (R168). -/
  | clf (dev : DevIndex)
  /-- TSF (R169). -/
  | tsf (dev : DevIndex)
  /-- IN (R170). -/
  | input (dev : DevIndex)
  /-- OUT (R171). -/
  | output (dev : DevIndex)
  /-- HLT (R156). -/
  | hlt
  /-- NOP (R157). -/
  | nop
  /-- CLA (R158). -/
  | cla
  /-- CLC (R159). -/
  | clc
  /-- CMA (R160). -/
  | cma
  /-- CMC (R161). -/
  | cmc
  /-- ROL (R162). -/
  | rol
  /-- ROR (R163). -/
  | ror
  /-- INC (R164). -/
  | inc
  /-- DEC (R165). -/
  | dec
  /-- EI (R166). -/
  | ei
  /-- DI (R167). -/
  | di
  deriving DecidableEq, Repr

/-- The level of an instruction (R2): `micro` for the engine's own words, `visible` for the macro set,
"the visible, programmer-facing instruction set". -/
inductive Level where
  | micro | visible
  deriving DecidableEq, Repr

/-- Whether an instruction is a micro-instruction or a macro instruction (R2). -/
def Instr.level : Instr → Level
  | .mcOp0 .. | .mcHalt .. | .mcIoConn .. | .mcIoRdy .. | .mcIoDi .. | .mcIoEi .. | .mcFlagsWb ..
  | .mcCtrl .. => .micro
  | .isz .. | .and .. | .jsr .. | .mov .. | .add .. | .adc .. | .sub .. | .bcs .. | .bpl .. | .bmi ..
  | .beq .. | .br .. | .clf .. | .tsf .. | .input .. | .output .. | .hlt | .nop | .cla | .clc | .cma
  | .cmc | .rol | .ror | .inc | .dec | .ei | .di => .visible

/-- The macro mnemonics, in the scan order of the descriptor table (R131). -/
inductive Mnemonic where
  | ROR | DI | CLC | CMC | ROL | DEC | EI | OUT | NOP | CLA | CMA | INC | TSF | IN | HLT | BEQ | CLF
  | MOV | ADC | SUB | BPL | BMI | BR | AND | JSR | ADD | BCS | ISZ
  deriving DecidableEq, Repr

/-- The operand kinds of macro instructions (R98). -/
inductive OperandKind where
  | simple | address | io
  deriving DecidableEq, Repr

end Sys2Proof
end

