-- ==== Sys2Proof/Decode.lean ====
section
/-! DEFINITION. The decoders and the encoder. The micro decoder is R95 of spec/30_encoding.md and is
what the sequencer uses; the macro decoder is the ordered mask scan of spec/40_macro_decoder.md R130
and is used by the host alone (R137). Both are total: no word is refused (R90, R102). The two levels
share all 65536 words, so a word has one reading on each level. -/

namespace Sys2Proof

/-! ## Field codes -/

/-- LEFT codes (R91). -/
def LeftSel.ofCode (b : BitVec 2) : LeftSel :=
  match b with
  | 0#2 => .none
  | 1#2 => .a
  | 2#2 => .sr
  | _ => .cr

/-- LEFT codes, the other way. -/
def LeftSel.code : LeftSel → BitVec 2
  | .none => 0#2
  | .a => 1#2
  | .sr => 2#2
  | .cr => 3#2

/-- RIGHT codes (R91): 11 is CC (spec/90_conflicts.md C1). -/
def RightSel.ofCode (b : BitVec 2) : RightSel :=
  match b with
  | 0#2 => .none
  | 1#2 => .dr
  | 2#2 => .cr
  | _ => .cc

/-- RIGHT codes, the other way. -/
def RightSel.code : RightSel → BitVec 2
  | .none => 0#2
  | .dr => 1#2
  | .cr => 2#2
  | .cc => 3#2

/-- INV codes (R91). -/
def invOfCode (b : BitVec 2) : Code Inv :=
  match b with
  | 0#2 => .listed .none
  | 1#2 => .listed .left
  | 2#2 => .listed .right
  | _ => .unlisted

/-- INV codes, the other way. -/
def invCode : Code Inv → BitVec 2
  | .listed .none => 0#2
  | .listed .left => 1#2
  | .listed .right => 2#2
  | .unlisted => 3#2

/-- OP codes (R91). -/
def aluOpOfCode (b : BitVec 2) : Code AluOp :=
  match b with
  | 0#2 => .listed .sum
  | 1#2 => .listed .sumPlusOne
  | 2#2 => .listed .and
  | _ => .unlisted

/-- OP codes, the other way. -/
def aluOpCode : Code AluOp → BitVec 2
  | .listed .sum => 0#2
  | .listed .sumPlusOne => 1#2
  | .listed .and => 2#2
  | .unlisted => 3#2

/-- SHIFT codes (R91). -/
def shiftOfCode (b : BitVec 2) : Code Shift :=
  match b with
  | 0#2 => .listed .none
  | 1#2 => .listed .right
  | 2#2 => .listed .left
  | _ => .unlisted

/-- SHIFT codes, the other way. -/
def shiftCode : Code Shift → BitVec 2
  | .listed .none => 0#2
  | .listed .right => 1#2
  | .listed .left => 2#2
  | .unlisted => 3#2

/-- MEM codes (R91). -/
def memOfCode (b : BitVec 2) : Code Mem :=
  match b with
  | 0#2 => .listed .none
  | 1#2 => .listed .read
  | 2#2 => .listed .write
  | _ => .unlisted

/-- MEM codes, the other way. -/
def memCode : Code Mem → BitVec 2
  | .listed .none => 0#2
  | .listed .read => 1#2
  | .listed .write => 2#2
  | .unlisted => 3#2

/-- CARRY codes (R92). -/
def CarrySel.ofCode (b : BitVec 2) : CarrySel :=
  match b with
  | 0#2 => .keep
  | 1#2 => .fromBuffer
  | 2#2 => .clear
  | _ => .set

/-- CARRY codes, the other way. -/
def CarrySel.code : CarrySel → BitVec 2
  | .keep => 0#2
  | .fromBuffer => 1#2
  | .clear => 2#2
  | .set => 3#2

/-- ZN codes (R92). -/
def ZnSel.ofCode (b : BitVec 2) : ZnSel :=
  match b with
  | 0#2 => .none
  | 1#2 => .zero
  | 2#2 => .negative
  | _ => .both

/-- ZN codes, the other way. -/
def ZnSel.code : ZnSel → BitVec 2
  | .none => 0#2
  | .zero => 1#2
  | .negative => 2#2
  | .both => 3#2

/-- WB codes (R92): 4 is CC, 6 reserved, 7 all four (spec/90_conflicts.md C4). -/
def WbSel.ofCode (b : BitVec 3) : WbSel :=
  match b with
  | 0#3 => .none
  | 1#3 => .ar
  | 2#3 => .dr
  | 3#3 => .cr
  | 4#3 => .cc
  | 5#3 => .a
  | 6#3 => .reserved
  | _ => .all

/-- WB codes, the other way. -/
def WbSel.code : WbSel → BitVec 3
  | .none => 0#3
  | .ar => 1#3
  | .dr => 2#3
  | .cr => 3#3
  | .cc => 4#3
  | .a => 5#3
  | .reserved => 6#3
  | .all => 7#3

/-- REG codes (R93, R251). -/
def CtrlReg.ofCode (b : BitVec 2) : CtrlReg :=
  match b with
  | 0#2 => .sr
  | 1#2 => .dr
  | 2#2 => .cr
  | _ => .a

/-- REG codes, the other way. -/
def CtrlReg.code : CtrlReg → BitVec 2
  | .sr => 0#2
  | .dr => 1#2
  | .cr => 2#2
  | .a => 3#2

/-! ## The micro decoder -/

/-- The reference decoder of R95: the class is the top of the word, and spare bits are dropped. -/
def decodeTerm (w : Word) : MicroTerm :=
  if w.getLsbD 15 then
    .ctrl (w.getLsbD 14) (CtrlReg.ofCode (w.extractLsb' 12 2)) (w.extractLsb' 8 4) (w.extractLsb' 0 8)
  else if w.getLsbD 14 then
    .op1
      { conn := w.getLsbD 8, rdy := w.getLsbD 9, di := w.getLsbD 10, ei := w.getLsbD 11 }
      (w.getLsbD 3)
      { carry := CarrySel.ofCode (w.extractLsb' 6 2), zn := ZnSel.ofCode (w.extractLsb' 4 2),
        wb := WbSel.ofCode (w.extractLsb' 0 3) }
  else
    .op0 (LeftSel.ofCode (w.extractLsb' 12 2)) (RightSel.ofCode (w.extractLsb' 8 2))
      (invOfCode (w.extractLsb' 6 2)) (aluOpOfCode (w.extractLsb' 4 2))
      (shiftOfCode (w.extractLsb' 2 2)) (memOfCode (w.extractLsb' 0 2))

/-- The opcode-table row of a decoded word: the paths of OP1 in the order halt, I/O, status (R223),
and on the I/O path the lowest set flag (log 5). -/
def classify : MicroTerm → Instr
  | .op0 left right inv op shift mem => .mcOp0 left right inv op shift mem
  | .op1 io true st => .mcHalt io st
  | .op1 ⟨true, rdy, di, ei⟩ false st => .mcIoConn rdy di ei st
  | .op1 ⟨false, true, di, ei⟩ false st => .mcIoRdy di ei st
  | .op1 ⟨false, false, true, ei⟩ false st => .mcIoDi ei st
  | .op1 ⟨false, false, false, true⟩ false st => .mcIoEi st
  | .op1 ⟨false, false, false, false⟩ false st => .mcFlagsWb st
  | .ctrl cmp reg bit target => .mcCtrl cmp reg bit target

/-- The micro-instruction of a microcode word: what the sequencer runs (R260). -/
def decodeMicro (w : Word) : Instr :=
  classify (decodeTerm w)

/-- The word of a micro-instruction term, spare bits 0 (R91 to R93). -/
def encodeTerm : MicroTerm → Word
  | .op0 left right inv op shift mem =>
    0#2 ++ left.code ++ 0#2 ++ right.code ++ invCode inv ++ aluOpCode op ++ shiftCode shift ++
      memCode mem
  | .op1 io halt st =>
    1#2 ++ 0#2 ++ BitVec.ofBool io.ei ++ BitVec.ofBool io.di ++ BitVec.ofBool io.rdy ++
      BitVec.ofBool io.conn ++ st.carry.code ++ st.zn.code ++ BitVec.ofBool halt ++ st.wb.code
  | .ctrl cmp reg bit target => 1#1 ++ BitVec.ofBool cmp ++ reg.code ++ bit ++ target

/-! ## The macro decoder -/

/-- The mask of a macro instruction: its canonical opcode with all operand bits 0 (R131). -/
def Mnemonic.mask : Mnemonic → Word
  | .ISZ => 0x0000#16
  | .AND => 0x1000#16
  | .JSR => 0x2000#16
  | .MOV => 0x3000#16
  | .ADD => 0x4000#16
  | .ADC => 0x5000#16
  | .SUB => 0x6000#16
  | .BCS => 0x8000#16
  | .BPL => 0x9000#16
  | .BMI => 0xA000#16
  | .BEQ => 0xB000#16
  | .BR => 0xC000#16
  | .CLF => 0xE000#16
  | .TSF => 0xE100#16
  | .IN => 0xE200#16
  | .OUT => 0xE300#16
  | .HLT => 0xF000#16
  | .NOP => 0xF100#16
  | .CLA => 0xF200#16
  | .CLC => 0xF300#16
  | .CMA => 0xF400#16
  | .CMC => 0xF500#16
  | .ROL => 0xF600#16
  | .ROR => 0xF700#16
  | .INC => 0xF800#16
  | .DEC => 0xF900#16
  | .EI => 0xFA00#16
  | .DI => 0xFB00#16

/-- The operand kind of a macro instruction (R131). -/
def Mnemonic.kind : Mnemonic → OperandKind
  | .ISZ | .AND | .JSR | .MOV | .ADD | .ADC | .SUB | .BCS | .BPL | .BMI | .BEQ | .BR => .address
  | .CLF | .TSF | .IN | .OUT => .io
  | .HLT | .NOP | .CLA | .CLC | .CMA | .CMC | .ROL | .ROR | .INC | .DEC | .EI | .DI => .simple

/-- The descriptor table in scan order (R131): set mask bits, most first; ties by mask, ascending. -/
def scanOrder : List Mnemonic :=
  [.ROR, .DI, .CLC, .CMC, .ROL, .DEC, .EI, .OUT, .NOP, .CLA, .CMA, .INC, .TSF, .IN, .HLT, .BEQ, .CLF,
   .MOV, .ADC, .SUB, .BPL, .BMI, .BR, .AND, .JSR, .ADD, .BCS, .ISZ]

/-- A row matches a word when all its mask bits are set in the word (R130). -/
def Mnemonic.matchesWord (m : Mnemonic) (w : Word) : Bool :=
  w &&& m.mask == m.mask

/-- The first matching row (R130). The scan always finds one, since the mask of ISZ is 0 (R102). -/
def selectRow (w : Word) : Mnemonic :=
  (scanOrder.find? fun m => m.matchesWord w).getD .ISZ

/-- The instruction of a row with its operands given apart: the indirect flag and address of the
address kind, the device of the io kind. -/
def instrOf (m : Mnemonic) (indirect : Bool) (addr : GenAddr) (dev : DevIndex) : Instr :=
  match m with
  | .ISZ => .isz indirect addr
  | .AND => .and indirect addr
  | .JSR => .jsr indirect addr
  | .MOV => .mov indirect addr
  | .ADD => .add indirect addr
  | .ADC => .adc indirect addr
  | .SUB => .sub indirect addr
  | .BCS => .bcs indirect addr
  | .BPL => .bpl indirect addr
  | .BMI => .bmi indirect addr
  | .BEQ => .beq indirect addr
  | .BR => .br indirect addr
  | .CLF => .clf dev
  | .TSF => .tsf dev
  | .IN => .input dev
  | .OUT => .output dev
  | .HLT => .hlt
  | .NOP => .nop
  | .CLA => .cla
  | .CLC => .clc
  | .CMA => .cma
  | .CMC => .cmc
  | .ROL => .rol
  | .ROR => .ror
  | .INC => .inc
  | .DEC => .dec
  | .EI => .ei
  | .DI => .di

/-- Macro decode (R130): the row of the scan, its operand extracted by R132; every other bit is
dropped. Reads and writes no state (R137). -/
def decodeMacro (w : Word) : Instr :=
  instrOf (selectRow w) (w.getLsbD 11) (w.extractLsb' 0 11) (w.extractLsb' 0 4)

/-- The word of an address-kind row (R300): `m | (indirect << 11) | addr`. -/
def addressWord (m : Mnemonic) (indirect : Bool) (addr : GenAddr) : Word :=
  m.mask ||| (BitVec.ofBool indirect).setWidth 16 <<< 11 ||| addr.setWidth 16

/-- The word of an io-kind row (R300): `m | dev`. -/
def deviceWord (m : Mnemonic) (dev : DevIndex) : Word :=
  m.mask ||| dev.setWidth 16

/-- The encoder: the word of an instruction, from the tables of R91 to R93 and R131, R300. -/
def encode : Instr → Word
  | .mcOp0 left right inv op shift mem => encodeTerm (.op0 left right inv op shift mem)
  | .mcHalt io st => encodeTerm (.op1 io true st)
  | .mcIoConn rdy di ei st => encodeTerm (.op1 ⟨true, rdy, di, ei⟩ false st)
  | .mcIoRdy di ei st => encodeTerm (.op1 ⟨false, true, di, ei⟩ false st)
  | .mcIoDi ei st => encodeTerm (.op1 ⟨false, false, true, ei⟩ false st)
  | .mcIoEi st => encodeTerm (.op1 ⟨false, false, false, true⟩ false st)
  | .mcFlagsWb st => encodeTerm (.op1 ⟨false, false, false, false⟩ false st)
  | .mcCtrl cmp reg bit target => encodeTerm (.ctrl cmp reg bit target)
  | .isz indirect addr => addressWord .ISZ indirect addr
  | .and indirect addr => addressWord .AND indirect addr
  | .jsr indirect addr => addressWord .JSR indirect addr
  | .mov indirect addr => addressWord .MOV indirect addr
  | .add indirect addr => addressWord .ADD indirect addr
  | .adc indirect addr => addressWord .ADC indirect addr
  | .sub indirect addr => addressWord .SUB indirect addr
  | .bcs indirect addr => addressWord .BCS indirect addr
  | .bpl indirect addr => addressWord .BPL indirect addr
  | .bmi indirect addr => addressWord .BMI indirect addr
  | .beq indirect addr => addressWord .BEQ indirect addr
  | .br indirect addr => addressWord .BR indirect addr
  | .clf dev => deviceWord .CLF dev
  | .tsf dev => deviceWord .TSF dev
  | .input dev => deviceWord .IN dev
  | .output dev => deviceWord .OUT dev
  | .hlt => Mnemonic.HLT.mask
  | .nop => Mnemonic.NOP.mask
  | .cla => Mnemonic.CLA.mask
  | .clc => Mnemonic.CLC.mask
  | .cma => Mnemonic.CMA.mask
  | .cmc => Mnemonic.CMC.mask
  | .rol => Mnemonic.ROL.mask
  | .ror => Mnemonic.ROR.mask
  | .inc => Mnemonic.INC.mask
  | .dec => Mnemonic.DEC.mask
  | .ei => Mnemonic.EI.mask
  | .di => Mnemonic.DI.mask

/-- The decoder of each level: R95 for a word of MICRO, R130 for a word of GEN. -/
def decodeAt (l : Level) (w : Word) : Instr :=
  match l with
  | .micro => decodeMicro w
  | .visible => decodeMacro w

/-- The instruction the ENGINE's decoder reads from a word numbered as the opcode table numbers it: one
16-bit word, so bit 0 is its least significant bit. The macro rows share their words with the micro
rows and no step decodes them (R2, R137), so a macro row's word reads as the micro-instruction it is
on the level that executes (log 8). More than one word is no instruction (R97). -/
def decodeTableWord (nbits w : Nat) : Option Instr :=
  if nbits ≤ 16 then some (decodeMicro (BitVec.ofNat 16 (w % 2 ^ nbits))) else none

end Sys2Proof
end

