-- ==== Sys2Proof/Config.lean ====
section
/-! DEFINITION. What is fixed for one machine: the sizes of spec/00_scope.md R6 and the parameters the
spec leaves open (R8, R9, spec/60_exceptions.md R350). An open parameter is an opaque constant: no
proof can see its value, so a claim that holds, holds for every value of it. -/

namespace Sys2Proof.Config

/-- GEN_WORDS, the cells of general memory (R6). -/
def genWords : Nat := 2048

/-- MICRO_WORDS, the cells of microcode memory (R6). -/
def microWords : Nat := 256

/-- DEVICES (R6). -/
def devices : Nat := 16

/-- BOOT_IMAGE (R8, D17): the (microcode address, word) pairs loaded at every reset, in list order.
Its content is not in the source: an open parameter (log 3). -/
opaque bootImage : List (MicroAddr × Word)

/-- LOG_CAPACITY less one (R350, D37): an open parameter. The ring holds at least one entry, since an
ignored connect leaves one (V-S22; DEDUCED, log 4). -/
opaque logCapacityPred : Nat

/-- LOG_CAPACITY (R350). -/
def logCapacity : Nat := logCapacityPred + 1

/-- HOST_BATCH (R9, I13): the most micro-steps one continuous-run call performs, default 100. -/
def hostBatch : Nat := 100

/-- The bound of one macro step, 2^64 micro-steps: "A run that reaches no halt word does not end; a
model bounds it by fuel" (R267). DESIGN CHOICE, log 6. -/
def macroFuel : Nat := 18446744073709551616

end Sys2Proof.Config
end

