-- ==== Sys2Proof/Machine/Bank.lean ====
section
/-! DEFINITION. The two memory banks as plain data (spec/20_memory.md R60), before any state: general
memory as a sparse list of cells in one canonical form, microcode memory as its 256 cells. -/

namespace Sys2Proof.Machine

/-- The cells of general memory: (index, word) pairs. Memory is word addressed, so the unit is the
16-bit cell and no byte order arises (R68, log 2). -/
abbrev GenCells := List (Nat × Word)

/-- The cells of microcode memory, every one listed (log 3). -/
abbrev MicroCells := Vector Word 256

/-- What a general cell that is not listed reads as: 0, its reset contents (R371). -/
def genUnlisted : Word := 0#16

/-- The value of general cell `i`. -/
def genLookup (cells : GenCells) (i : Nat) : Word :=
  match cells with
  | [] => genUnlisted
  | c :: rest => if c.1 = i then c.2 else genLookup rest i

/-- The cells after `v` is stored in general cell `i`, in canonical form again: the value an unlisted
cell reads as removes the entry. -/
def genStore (cells : GenCells) (i : Nat) (v : Word) : GenCells :=
  match cells with
  | [] => if v = genUnlisted then [] else [(i, v)]
  | c :: rest =>
    if i < c.1 then (if v = genUnlisted then c :: rest else (i, v) :: c :: rest)
    else if c.1 = i then (if v = genUnlisted then rest else (i, v) :: rest)
    else c :: genStore rest i v

/-- Indexes strictly rising, each above `low` where one is given. -/
def genRising : Option Nat → GenCells → Bool
  | _, [] => true
  | none, c :: rest => genRising (some c.1) rest
  | some low, c :: rest => decide (low < c.1) && genRising (some c.1) rest

/-- The canonical form of general memory: indexes strictly rising and inside the bank (R60), and no
entry equal to what an unlisted cell reads as. -/
def genWf (cells : GenCells) : Bool :=
  genRising none cells &&
    cells.all fun c => decide (c.1 < Config.genWords) && decide (c.2 ≠ genUnlisted)

/-- The word of microcode cell `i` after reset: 0, then the pairs of the image in list order, so that a
later pair for the same address wins (R371). -/
def bootCell (image : List (MicroAddr × Word)) (i : Nat) : Word :=
  image.foldl (fun w p => if p.1.toNat = i then p.2 else w) 0#16

/-- Microcode memory after reset (R371), cell by cell. -/
def bootCells (image : List (MicroAddr × Word)) : MicroCells :=
  ⟨⟨(List.range 256).map (bootCell image)⟩, by simp⟩

/-- The value of microcode cell `i`, an 8-bit index and so always inside the bank (R65). -/
def microLookup (cells : MicroCells) (i : MicroAddr) : Word :=
  cells[i.toNat]'i.isLt

/-- The cells after `v` is stored in microcode cell `i`. -/
def microStore (cells : MicroCells) (i : MicroAddr) (v : Word) : MicroCells :=
  cells.set i.toNat v i.isLt

end Sys2Proof.Machine
end

