-- ==== Sys2Proof/Machine/State.lean ====
section
/-! DEFINITION. The state of the machine (spec/10_state.md R50), as plain data, the reasons a step can
stop with, and the state after construction (spec/70_reset_and_hazards.md R370). -/

namespace Sys2Proof.Machine

/-- The two banks (R60). -/
inductive Bank where
  | gen | micro
  deriving DecidableEq, Repr

/-- The fault reasons of the model-only fault mark (spec/60_exceptions.md R341 to R343), with the
information each records. A step from a state that carries the mark stops with it. -/
inductive Fault where
  /-- R342: an engine access to an index outside a bank. Raised by `memAccess`; unreachable with the
  fixed sizes. Safe: it stops where the source says the machine must not go on. -/
  | invariantViolation (bank : Bank) (index : Nat)
  /-- R343: an OP0 word whose consulted field holds 11, with the word and its MPC. Raised by `aluPath`.
  Safe: the source lists no behaviour, the original may go on. -/
  | unlistedField (word : Word) (mpc : MicroAddr)
  deriving DecidableEq, Repr

/-- The reasons for which the model gives no next state. -/
inductive Refusal where
  /-- An instruction with no meaning yet, rejected by name in `exec`; no arm does so. Safe. -/
  | notModelled (mnemonic : String)
  /-- Raised by the meaning of a macro instruction, through `runMacro`: its run reached no halt word
  within `Config.macroFuel` micro-steps (R267, log 6). Safe: nothing is claimed of such a run. -/
  | macroStepUnended
  deriving DecidableEq, Repr

/-- What micro_step returns (spec/44_sequencer.md R261). -/
inductive StepOutcome where
  | success | jumped | halted | fault
  deriving DecidableEq, Repr

/-- One device (R47). -/
structure Device where
  data : Byte
  ready : Bool
  deriving DecidableEq, Repr

/-- A diagnostic log entry (R350): message texts are not in the source, so an entry says what happened.
`hostMessage` is what the host appends. -/
inductive LogEntry where
  | ignoredConnect (dr cr : Word)
  | hostMessage (text : Text)
  deriving DecidableEq, Repr

/-- The whole machine (R50). -/
structure State where
  /-- accumulator (R20) -/
  a : Word
  /-- command counter, the macro-level program counter (R24) -/
  cc : GenAddr
  /-- micro-program counter (R23) -/
  mpc : MicroAddr
  /-- status word (R36) -/
  sr : Status
  /-- buffer register (R26) -/
  br : Buffer
  /-- address register (R25) -/
  ar : GenAddr
  /-- command register (R20) -/
  cr : Word
  /-- data register (R20) -/
  dr : Word
  /-- micro-command register (R27) -/
  mcr : Word
  /-- general memory (R60) -/
  gen : GenCells
  /-- microcode memory (R60) -/
  micro : MicroCells
  /-- the device array (R47) -/
  devices : Vector Device 16
  /-- the diagnostic log, oldest entry first (R350) -/
  log : List LogEntry
  /-- the model-only fault mark (R341) -/
  faultMark : Option Fault
  /-- the MODEL's own field: what the last micro_step returned (R261); no later step reads it (log 1) -/
  outcome : Option StepOutcome
  deriving DecidableEq, Repr

/-- Machine construction (R370): registers, flags and devices 0, log and fault mark empty, general
memory 0 and microcode memory the boot image (R371). -/
def State.reset : State where
  a := 0#16
  cc := 0#11
  mpc := 0#8
  sr := 0#13
  br := 0#17
  ar := 0#11
  cr := 0#16
  dr := 0#16
  mcr := 0#16
  gen := []
  micro := bootCells Config.bootImage
  devices := Vector.replicate 16 ⟨0#8, false⟩
  log := []
  faultMark := none
  outcome := none

end Sys2Proof.Machine
end

