-- ==== Sys2Proof/Machine/Ops.lean ====
section
/-! DEFINITION. The named operations over registers, memory, devices, the log and the fault mark. Every
read and write of the state by an instruction goes through one of these. -/

namespace Sys2Proof.Machine

/-! ## Registers: every write stores the value masked to the register's width (spec/10_state.md R21) -/

/-- `A <- v`. -/
def State.setA (s : State) (v : Word) : State := { s with a := v }

/-- `CC <- v & 0x7FF`. -/
def State.setCc (s : State) (v : Word) : State := { s with cc := v.setWidth 11 }

/-- `AR <- v & 0x7FF`. -/
def State.setAr (s : State) (v : Word) : State := { s with ar := v.setWidth 11 }

/-- `CR <- v`. -/
def State.setCr (s : State) (v : Word) : State := { s with cr := v }

/-- `DR <- v`. -/
def State.setDr (s : State) (v : Word) : State := { s with dr := v }

/-- `BR <- v`, all 17 bits. -/
def State.setBr (s : State) (v : Buffer) : State := { s with br := v }

/-- `SR <- v`, all 13 bits. -/
def State.setSr (s : State) (v : Status) : State := { s with sr := v }

/-- `MPC <- v`. -/
def State.setMpc (s : State) (v : MicroAddr) : State := { s with mpc := v }

/-- `MCR <- v`. -/
def State.setMcr (s : State) (v : Word) : State := { s with mcr := v }

/-- `BR[15:0]`: what write-back stores and Z and N are computed from (R26). -/
def State.brLow (s : State) : Word := s.br.setWidth 16

/-- `BR[16]`: the carry-out of a sum or a shift (R26). -/
def State.brCarry (s : State) : Bool := s.br.getLsbD 16

/-- `CC <- (CC + 1) & 0x7FF` (R24, spec/45_io_protocol.md R284). -/
def State.skip (s : State) : State := { s with cc := s.cc + 1#11 }

/-! ## The outcome of a micro-step and the fault mark -/

/-- Record what the micro-step returns (spec/44_sequencer.md R261). -/
def State.returning (s : State) (o : StepOutcome) : State := { s with outcome := some o }

/-- `raise Fault(reason)` (spec/60_exceptions.md R341): the mark is set and the step returns Fault;
nothing else changes (D34). This is the one place an exceptional condition is entered. There is no
return from it: no step clears the mark (R341) and the hardware has no return-from-trap (R340). -/
def State.raise (s : State) (f : Fault) : State :=
  { s with faultMark := some f, outcome := some .fault }

/-! ## Memory (spec/20_memory.md R61, R62, R67) -/

/-- The number of cells of a bank (R60). -/
def Bank.size : Bank → Nat
  | .gen => Config.genWords
  | .micro => Config.microWords

/-- `MemRead(bank, i)`; `none` where the index is outside the bank (R61, R67). -/
def memRead (b : Bank) (i : Nat) (s : State) : Option Word :=
  if i < b.size then
    match b with
    | .gen => some (genLookup s.gen i)
    | .micro => some (microLookup s.micro (BitVec.ofNat 8 i))
  else none

/-- `MemWrite(bank, i, v)`; `none` where the index is outside the bank (R62, R67). -/
def memWrite (b : Bank) (i : Nat) (v : Word) (s : State) : Option State :=
  if i < b.size then
    match b with
    | .gen => some { s with gen := genStore s.gen i v }
    | .micro => some { s with micro := microStore s.micro (BitVec.ofNat 8 i) v }
  else none

/-- The general cell at an 11-bit address, which is always inside the bank (R25). -/
def State.genWord (s : State) (i : GenAddr) : Word := genLookup s.gen i.toNat

/-- The state after a store in the general cell at an 11-bit address. -/
def State.setGenWord (s : State) (i : GenAddr) (v : Word) : State :=
  { s with gen := genStore s.gen i.toNat v }

/-- The microcode word at an 8-bit address (R65). -/
def State.microWord (s : State) (i : MicroAddr) : Word := microLookup s.micro i

/-- The state after a store in the microcode cell at an 8-bit address: the host's port alone (R66). -/
def State.setMicroWord (s : State) (i : MicroAddr) (v : Word) : State :=
  { s with micro := microStore s.micro i v }

/-! ## Devices (R47) -/

/-- Device `d`. -/
def State.device (s : State) (d : DevIndex) : Device := s.devices[d.toNat]'d.isLt

/-- The state with device `d` replaced. -/
def State.setDevice (s : State) (d : DevIndex) (v : Device) : State :=
  { s with devices := s.devices.set d.toNat v d.isLt }

/-- `data(d) <- v`; the ready flag is kept (R281). -/
def State.setDeviceData (s : State) (d : DevIndex) (v : Byte) : State :=
  s.setDevice d { s.device d with data := v }

/-- `ready(d) <- b`; the data is kept (R283, R287). -/
def State.setDeviceReady (s : State) (d : DevIndex) (b : Bool) : State :=
  s.setDevice d { s.device d with ready := b }

/-- Every device's ready flag becomes false; the data is kept (spec/42_micro_status_io.md R228). -/
def State.clearReady (s : State) : State :=
  { s with devices := ⟨⟨s.devices.toList.map fun v => { v with ready := false }⟩, by simp⟩ }

/-! ## The diagnostic log (R350) -/

/-- A bounded ring: the newest LOG_CAPACITY entries are kept. -/
def ringAppend (capacity : Nat) (entries : List LogEntry) (e : LogEntry) : List LogEntry :=
  (entries ++ [e]).drop (entries.length + 1 - capacity)

/-- `log(msg)`. -/
def State.appendLog (s : State) (e : LogEntry) : State :=
  { s with log := ringAppend Config.logCapacity s.log e }

end Sys2Proof.Machine
end

