-- ==== Sys2Proof/Machine/Flags.lean ====
section
/-! DEFINITION. The status word (spec/10_state.md R36) and every flag computation: the carry and Z/N
selectors of the status path (spec/42_micro_status_io.md R224, R225) and the single flags the I/O path
writes (R229, R284, R285). -/

namespace Sys2Proof.Machine

/-- The flags of SR (R36). -/
inductive Flag where
  | carry | zero | negative | constantZero | interruptsAllowed | interruptPending | deviceReady
  | runLever | programMode | inert9 | inert10 | executeByTick | ioActive
  deriving DecidableEq, Repr

/-- The bit of a flag (R36). -/
def flagBit : Flag → Nat
  | .carry => 0
  | .zero => 1
  | .negative => 2
  | .constantZero => 3
  | .interruptsAllowed => 4
  | .interruptPending => 5
  | .deviceReady => 6
  | .runLever => 7
  | .programMode => 8
  | .inert9 => 9
  | .inert10 => 10
  | .executeByTick => 11
  | .ioActive => 12

/-- A status word with bit `i` made `b` and every other bit kept (R34). -/
def statusWithBit (sr : Status) (i : Nat) (b : Bool) : Status :=
  if b then sr ||| 1#13 <<< i else sr &&& ~~~(1#13 <<< i)

/-- `SR[f]`. -/
def State.flag (s : State) (f : Flag) : Bool := s.sr.getLsbD (flagBit f)

/-- `SR[f] <- b`. -/
def State.setFlag (s : State) (f : Flag) (b : Bool) : State :=
  s.setSr (statusWithBit s.sr (flagBit f) b)

/-- The carry update (R224): keep; `C <- BR[16]` and then BR[16] cleared; 0; 1. -/
def updateCarry (c : CarrySel) (s : State) : State :=
  match c with
  | .keep => s
  | .fromBuffer => (s.setFlag .carry s.brCarry).setBr (s.brLow.setWidth 17)
  | .clear => s.setFlag .carry false
  | .set => s.setFlag .carry true

/-- `Z <- (BR[15:0] == 0)` (R38). -/
def updateZero (s : State) : State := s.setFlag .zero (s.brLow == 0#16)

/-- `N <- BR[15]` (R38). -/
def updateNegative (s : State) : State := s.setFlag .negative (s.brLow.getLsbD 15)

/-- The zero/negative update (R225). -/
def updateZn (z : ZnSel) (s : State) : State :=
  match z with
  | .none => s
  | .zero => updateZero s
  | .negative => updateNegative s
  | .both => updateNegative (updateZero s)

end Sys2Proof.Machine
end

