-- ==== Sys2Proof/Machine/Operands.lean ====
section
/-! DEFINITION. The operand forms: ALU operands and their complement, the ALU and the shifter
(spec/41_micro_alu.md R192 to R198), the registers a control word tests (spec/43_micro_control.md
R251), and write-back (spec/42_micro_status_io.md R226). -/

namespace Sys2Proof.Machine

/-- `sel_left` (R195); SR reads zero-extended (R28). -/
def leftOperand (l : LeftSel) (s : State) : Word :=
  match l with
  | .none => 0#16
  | .a => s.a
  | .sr => s.sr.setWidth 16
  | .cr => s.cr

/-- `sel_right` (R196); CC reads zero-extended (R28). -/
def rightOperand (r : RightSel) (s : State) : Word :=
  match r with
  | .none => 0#16
  | .dr => s.dr
  | .cr => s.cr
  | .cc => s.cc.setWidth 16

/-- The left operand after the complement select (R197): over 16 bits for every operand. -/
def complementLeft (i : Inv) (l : Word) : Word :=
  match i with
  | .left => ~~~l
  | .none | .right => l

/-- The right operand after the complement select (R197). -/
def complementRight (i : Inv) (r : Word) : Word :=
  match i with
  | .right => ~~~r
  | .none | .left => r

/-- The ALU (R198): sums are exact, on unbounded naturals and then stored with the 17-bit mask (R199),
which loses nothing of two 16-bit operands. -/
def aluResult (op : AluOp) (l r : Word) : Buffer :=
  match op with
  | .sum => BitVec.ofNat 17 (l.toNat + r.toNat)
  | .sumPlusOne => BitVec.ofNat 17 (l.toNat + r.toNat + 1)
  | .and => (l &&& r).setWidth 17

/-- Shift left (R192): `((A << 1) | C) & 0x1FFFF`. -/
def shiftLeft (a : Word) (c : Bool) : Buffer :=
  a.setWidth 17 <<< 1 ||| (BitVec.ofBool c).setWidth 17

/-- Shift right (R193): `(A[0] << 16) | (C << 15) | (A >> 1)`. -/
def shiftRight (a : Word) (c : Bool) : Buffer :=
  (BitVec.ofBool (a.getLsbD 0)).setWidth 17 <<< 16 ||| (BitVec.ofBool c).setWidth 17 <<< 15 |||
    (a.setWidth 17) >>> 1

/-- The register a control word tests, zero-extended to 16 bits (R250, R251). -/
def controlOperand (r : CtrlReg) (s : State) : Word :=
  match r with
  | .sr => s.sr.setWidth 16
  | .dr => s.dr
  | .cr => s.cr
  | .a => s.a

/-- The memory access of OP0 (R194) through the engine's data port: GEN at AR through DR (R63). An
index outside the bank is the invariant violation of R342, which the 11 bits of AR rule out. -/
def memAccess (m : Mem) (s : State) : Except Fault State :=
  match m with
  | .none => .ok s
  | .read =>
    match memRead .gen s.ar.toNat s with
    | some v => .ok (s.setDr v)
    | none => .error (.invariantViolation .gen s.ar.toNat)
  | .write =>
    match memWrite .gen s.ar.toNat s.dr s with
    | some t => .ok t
    | none => .error (.invariantViolation .gen s.ar.toNat)

/-- Write-back of a value (R226): each destination stores it under its mask; 7 writes AR, DR, CR and A
and not CC; 0 and the reserved 6 write nothing. -/
def writeBack (w : WbSel) (v : Word) (s : State) : State :=
  match w with
  | .none => s
  | .ar => s.setAr v
  | .dr => s.setDr v
  | .cr => s.setCr v
  | .cc => s.setCc v
  | .a => s.setA v
  | .reserved => s
  | .all => (((s.setAr v).setDr v).setCr v).setA v

end Sys2Proof.Machine
end

