-- ==== Sys2Proof/Machine/Alu.lean ====
section
/-! DEFINITION. The ALU, shift and memory micro-instruction, MC_OP0 (spec/41_micro_alu.md R190). -/

namespace Sys2Proof.Machine

/-- The unshifted part of exec_OP0 with every consulted field listed: the memory access first, then the
operands, complement and ALU on the state after it, and the result to BR (R190, R194, R199). -/
def aluCompute (left : LeftSel) (right : RightSel) (inv : Inv) (op : AluOp) (mem : Mem) (s : State) :
    State :=
  match memAccess mem s with
  | .error f => s.raise f
  | .ok t =>
    (t.setBr (aluResult op (complementLeft inv (leftOperand left t))
      (complementRight inv (rightOperand right t)))).returning .success

/-- exec_OP0 (R190): SHIFT is judged first and an active shift excludes the rest (R191); then MEM, INV
and OP together (R203, R344). The fault records the word just fetched and its MPC (R343). -/
def aluPath (left : LeftSel) (right : RightSel) (inv : Code Inv) (op : Code AluOp)
    (shift : Code Shift) (mem : Code Mem) (s : State) : State :=
  match shift with
  | .unlisted => s.raise (.unlistedField s.mcr s.mpc)
  | .listed .right => (s.setBr (shiftRight s.a (s.flag .carry))).returning .success
  | .listed .left => (s.setBr (shiftLeft s.a (s.flag .carry))).returning .success
  | .listed .none =>
    match mem, inv, op with
    | .listed m, .listed i, .listed o => aluCompute left right i o m s
    | .unlisted, _, _ => s.raise (.unlistedField s.mcr s.mpc)
    | .listed _, .unlisted, _ => s.raise (.unlistedField s.mcr s.mpc)
    | .listed _, .listed _, .unlisted => s.raise (.unlistedField s.mcr s.mpc)

/-- MC_OP0 (R190). -/
def execMcOp0 (left : LeftSel) (right : RightSel) (inv : Code Inv) (op : Code AluOp)
    (shift : Code Shift) (mem : Code Mem) (s : State) : Host.Outcome State Fault Refusal :=
  .next (aluPath left right inv op shift mem s)

end Sys2Proof.Machine
end

