-- ==== Sys2Proof/Machine/Control.lean ====
section
/-! DEFINITION. The control micro-instruction, MC_CTRL (spec/43_micro_control.md R250). -/

namespace Sys2Proof.Machine

/-- exec_CTRL (R250): if the tested bit equals CMP, `MPC <- TARGET` and Jumped; else Success. -/
def controlPath (cmp : Bool) (reg : CtrlReg) (bit : BitVec 4) (target : MicroAddr) (s : State) :
    State :=
  if (controlOperand reg s).getLsbD bit.toNat = cmp then (s.setMpc target).returning .jumped
  else s.returning .success

/-- MC_CTRL (R250). -/
def execMcCtrl (cmp : Bool) (reg : CtrlReg) (bit : BitVec 4) (target : MicroAddr) (s : State) :
    Host.Outcome State Fault Refusal :=
  .next (controlPath cmp reg bit target s)

end Sys2Proof.Machine
end

