-- ==== Sys2Proof/Machine/StatusIo.lean ====
section
/-! DEFINITION. The status, write-back and I/O micro-instruction (spec/42_micro_status_io.md R220) by
its three exclusive paths, the I/O protocol the connect flag runs (spec/45_io_protocol.md R280), and
the meanings of the six opcode-table rows of class 01. -/

namespace Sys2Proof.Machine

/-! ## The I/O protocol (R280) -/

/-- OUT case (R281): `data(d) <- A[7:0]`. -/
def ioOut (d : DevIndex) (s : State) : State := s.setDeviceData d (s.a.extractLsb' 0 8)

/-- IN case (R282): `A <- (A & 0xFF00) | data(d)`. -/
def ioIn (d : DevIndex) (s : State) : State :=
  s.setA (s.a &&& 0xFF00#16 ||| (s.device d).data.setWidth 16)

/-- TSF case (R284): `SR[6] <- ready(d)`, and CC is advanced if ready. -/
def ioTest (d : DevIndex) (s : State) : State :=
  if (s.device d).ready then (s.setFlag .deviceReady true).skip else s.setFlag .deviceReady false

/-- CLF case (R283): `ready(d) <- false`. -/
def ioClear (d : DevIndex) (s : State) : State := s.setDeviceReady d false

/-- The device the protocol addresses: DR[3:0] (R280). -/
def ioDevice (s : State) : DevIndex := s.dr.extractLsb' 0 4

/-- The case of the protocol by DR bits 9..8, tested in this order (R280). -/
def ioCase (s : State) : State :=
  if s.dr &&& 0x0300#16 = 0x0300#16 then ioOut (ioDevice s) s
  else if s.dr &&& 0x0200#16 ≠ 0#16 then ioIn (ioDevice s) s
  else if s.dr &&& 0x0100#16 ≠ 0#16 then ioTest (ioDevice s) s
  else ioClear (ioDevice s) s

/-- The I/O protocol (R280): the case, then SR bit 12 is cleared (R285). -/
def ioProtocol (s : State) : State := (ioCase s).setFlag .ioActive false

/-- Connect-to-device (R230): the protocol if DR equals CR in all 16 bits; else logged and ignored. -/
def connect (s : State) : State :=
  if s.dr = s.cr then ioProtocol s else s.appendLog (.ignoredConnect s.dr s.cr)

/-! ## The three paths of exec_OP1 (R220) -/

/-- The halt path (R221): nothing changes, Halted is returned. -/
def haltPath (s : State) : State := s.returning .halted

/-- An effect that happens if its flag is set. -/
def whenSet (b : Bool) (effect : State → State) (s : State) : State := if b then effect s else s

/-- The I/O path (R227): the effects of the set flags in ascending bit order, connect first. -/
def ioPath (conn rdy di ei : Bool) (s : State) : State :=
  (whenSet ei (State.setFlag · .interruptsAllowed true)
    (whenSet di (State.setFlag · .interruptsAllowed false)
      (whenSet rdy State.clearReady (whenSet conn connect s)))).returning .success

/-- The flag updates of the status path: the carry update, then Z/N (R224, R225). -/
def flagsUpdated (st : StatusFields) (s : State) : State := updateZn st.zn (updateCarry st.carry s)

/-- The status path (R220): the flag updates, then write-back of `BR[15:0]` (R226). -/
def statusPath (st : StatusFields) (s : State) : State :=
  (writeBack st.wb (flagsUpdated st s).brLow (flagsUpdated st s)).returning .success

/-! ## The meanings of the rows -/

/-- MC_HALT (R221): every other field is masked. -/
def execMcHalt (_io : IoFlags) (_st : StatusFields) (s : State) : Host.Outcome State Fault Refusal :=
  .next (haltPath s)

/-- MC_IO_CONN (R230), and the flags set beside it (R227); the status fields are masked (R223). -/
def execMcIoConn (rdy di ei : Bool) (_st : StatusFields) (s : State) :
    Host.Outcome State Fault Refusal :=
  .next (ioPath true rdy di ei s)

/-- MC_IO_RDY (R228), and the flags set above it. -/
def execMcIoRdy (di ei : Bool) (_st : StatusFields) (s : State) : Host.Outcome State Fault Refusal :=
  .next (ioPath false true di ei s)

/-- MC_IO_DI (R229), and EI after it where set (D8). -/
def execMcIoDi (ei : Bool) (_st : StatusFields) (s : State) : Host.Outcome State Fault Refusal :=
  .next (ioPath false false true ei s)

/-- MC_IO_EI (R229). -/
def execMcIoEi (_st : StatusFields) (s : State) : Host.Outcome State Fault Refusal :=
  .next (ioPath false false false true s)

/-- MC_FLAGS_WB (R220, R224 to R226). -/
def execMcFlagsWb (st : StatusFields) (s : State) : Host.Outcome State Fault Refusal :=
  .next (statusPath st s)

end Sys2Proof.Machine
end

