-- ==== Sys2Proof/Machine/Engine.lean ====
section
/-! DEFINITION. The microcode engine: the sequencer of spec/44_sequencer.md R260 over the three decoded
shapes of R95, and the run of micro-steps that is one macro step (R263), which is how a macro
instruction has an effect at all (R2, R137, spec/40_macro_decoder.md WARNING 2). -/

namespace Sys2Proof.Machine

/-! ## One micro-step -/

/-- The microcode word at MPC (R65, R260). -/
def fetchWord (s : State) : Word := s.microWord s.mpc

/-- The state the instruction runs on: the fetched word is recorded in MCR (R260, R27). -/
def fetched (s : State) : State := s.setMcr (fetchWord s)

/-- exec_OP1 (R220): halt first, then the I/O path if any flag is set, else the status path (R223). -/
def op1Path (io : IoFlags) (halt : Bool) (st : StatusFields) (s : State) : State :=
  if halt then haltPath s
  else if io.conn || io.rdy || io.di || io.ei then ioPath io.conn io.rdy io.di io.ei s
  else statusPath st s

/-- `exec` of R260 on a decoded word. -/
def runTerm (m : MicroTerm) (s : State) : State :=
  match m with
  | .op0 left right inv op shift mem => aluPath left right inv op shift mem s
  | .op1 io halt st => op1Path io halt st s
  | .ctrl cmp reg bit target => controlPath cmp reg bit target s

/-- The end of a micro-step (R260, R262): MPC is advanced by one modulo 256 after Success and Halted,
and left alone after Jumped and after a fault. -/
def advance (s : State) : State :=
  match s.outcome with
  | some .jumped => s
  | some .fault => s
  | some .success => s.setMpc (s.mpc + 1#8)
  | some .halted => s.setMpc (s.mpc + 1#8)
  | none => s.setMpc (s.mpc + 1#8)

/-- micro_step (R260). A state with a fault mark has no further step (R341): it stops with the reason
of the mark. -/
def microStep (s : State) : Host.Outcome State Fault Refusal :=
  match s.faultMark with
  | some f => .fault f
  | none => .next (advance (runTerm (decodeTerm (fetchWord s)) (fetched s)))

/-! ## One macro step -/

/-- Whether a macro step is over after a micro-step: it returned Halted (R263), or it raised a fault,
after which there is no further step (R341). -/
def macroStepOver (s : State) : Bool :=
  s.outcome == some .halted || s.faultMark.isSome

/-- The macro step (R263): micro_step again and again until it returns Halted, at most `fuel` times
(R267). -/
def runMacro (fuel : Nat) (s : State) : Host.Outcome State Fault Refusal :=
  match fuel with
  | 0 => .refused .macroStepUnended
  | n + 1 =>
    match microStep s with
    | .next t => if macroStepOver t then .next t else runMacro n t
    | .fault f => .fault f
    | .refused r => .refused r

/-- The state in which the macro program's next word is `w`: GEN holds it at CC, the macro-level program
counter (R24, R77, spec/70_reset_and_hazards.md R375). -/
def placeMacro (w : Word) (s : State) : State := s.setGenWord s.cc w

/-- The effect of a macro word: what the microprogram in MICRO does with it in one macro step (R2, R103,
D35). The microprogram starts at the MPC the state holds (log 6). -/
def runMacroWord (w : Word) (s : State) : Host.Outcome State Fault Refusal :=
  runMacro Config.macroFuel (placeMacro w s)

end Sys2Proof.Machine
end

