-- ==== Sys2Proof/Machine/Macro.lean ====
section
/-! DEFINITION. The meanings of the 28 macro instructions. "The core never executes a macro instruction
... a macro instruction's effect is whatever the microprogram in MICRO does with the word"
(spec/40_macro_decoder.md WARNING 2): each meaning puts the instruction's word where the macro program
counter points and runs one macro step, so it derives from the micro rules and the microprogram MICRO
holds, "never from these effect lines" (D35, log 6). The effect lines themselves, which are informative,
stand in Machine/Intended.lean. -/

namespace Sys2Proof.Machine

/-- ISZ (R143). -/
def execIsz (indirect : Bool) (addr : GenAddr) (s : State) : Host.Outcome State Fault Refusal :=
  runMacroWord (addressWord .ISZ indirect addr) s

/-- AND (R144). -/
def execAnd (indirect : Bool) (addr : GenAddr) (s : State) : Host.Outcome State Fault Refusal :=
  runMacroWord (addressWord .AND indirect addr) s

/-- JSR (R145). -/
def execJsr (indirect : Bool) (addr : GenAddr) (s : State) : Host.Outcome State Fault Refusal :=
  runMacroWord (addressWord .JSR indirect addr) s

/-- MOV (R146). -/
def execMov (indirect : Bool) (addr : GenAddr) (s : State) : Host.Outcome State Fault Refusal :=
  runMacroWord (addressWord .MOV indirect addr) s

/-- ADD (R147). -/
def execAdd (indirect : Bool) (addr : GenAddr) (s : State) : Host.Outcome State Fault Refusal :=
  runMacroWord (addressWord .ADD indirect addr) s

/-- ADC (R148). -/
def execAdc (indirect : Bool) (addr : GenAddr) (s : State) : Host.Outcome State Fault Refusal :=
  runMacroWord (addressWord .ADC indirect addr) s

/-- SUB (R149). -/
def execSub (indirect : Bool) (addr : GenAddr) (s : State) : Host.Outcome State Fault Refusal :=
  runMacroWord (addressWord .SUB indirect addr) s

/-- BCS (R150). -/
def execBcs (indirect : Bool) (addr : GenAddr) (s : State) : Host.Outcome State Fault Refusal :=
  runMacroWord (addressWord .BCS indirect addr) s

/-- BPL (R151). -/
def execBpl (indirect : Bool) (addr : GenAddr) (s : State) : Host.Outcome State Fault Refusal :=
  runMacroWord (addressWord .BPL indirect addr) s

/-- BMI (R152). -/
def execBmi (indirect : Bool) (addr : GenAddr) (s : State) : Host.Outcome State Fault Refusal :=
  runMacroWord (addressWord .BMI indirect addr) s

/-- BEQ (R153). -/
def execBeq (indirect : Bool) (addr : GenAddr) (s : State) : Host.Outcome State Fault Refusal :=
  runMacroWord (addressWord .BEQ indirect addr) s

/-- BR (R154). -/
def execBr (indirect : Bool) (addr : GenAddr) (s : State) : Host.Outcome State Fault Refusal :=
  runMacroWord (addressWord .BR indirect addr) s

/-- CLF (R168). -/
def execClf (dev : DevIndex) (s : State) : Host.Outcome State Fault Refusal :=
  runMacroWord (deviceWord .CLF dev) s

/-- TSF (R169). -/
def execTsf (dev : DevIndex) (s : State) : Host.Outcome State Fault Refusal :=
  runMacroWord (deviceWord .TSF dev) s

/-- IN (R170). -/
def execInput (dev : DevIndex) (s : State) : Host.Outcome State Fault Refusal :=
  runMacroWord (deviceWord .IN dev) s

/-- OUT (R171). -/
def execOutput (dev : DevIndex) (s : State) : Host.Outcome State Fault Refusal :=
  runMacroWord (deviceWord .OUT dev) s

/-- HLT (R156). -/
def execHlt (s : State) : Host.Outcome State Fault Refusal :=
  runMacroWord (Mnemonic.mask .HLT) s

/-- NOP (R157). -/
def execNop (s : State) : Host.Outcome State Fault Refusal :=
  runMacroWord (Mnemonic.mask .NOP) s

/-- CLA (R158). -/
def execCla (s : State) : Host.Outcome State Fault Refusal :=
  runMacroWord (Mnemonic.mask .CLA) s

/-- CLC (R159). -/
def execClc (s : State) : Host.Outcome State Fault Refusal :=
  runMacroWord (Mnemonic.mask .CLC) s

/-- CMA (R160). -/
def execCma (s : State) : Host.Outcome State Fault Refusal :=
  runMacroWord (Mnemonic.mask .CMA) s

/-- CMC (R161). -/
def execCmc (s : State) : Host.Outcome State Fault Refusal :=
  runMacroWord (Mnemonic.mask .CMC) s

/-- ROL (R162). -/
def execRol (s : State) : Host.Outcome State Fault Refusal :=
  runMacroWord (Mnemonic.mask .ROL) s

/-- ROR (R163). -/
def execRor (s : State) : Host.Outcome State Fault Refusal :=
  runMacroWord (Mnemonic.mask .ROR) s

/-- INC (R164). -/
def execInc (s : State) : Host.Outcome State Fault Refusal :=
  runMacroWord (Mnemonic.mask .INC) s

/-- DEC (R165). -/
def execDec (s : State) : Host.Outcome State Fault Refusal :=
  runMacroWord (Mnemonic.mask .DEC) s

/-- EI (R166). -/
def execEi (s : State) : Host.Outcome State Fault Refusal :=
  runMacroWord (Mnemonic.mask .EI) s

/-- DI (R167). -/
def execDi (s : State) : Host.Outcome State Fault Refusal :=
  runMacroWord (Mnemonic.mask .DI) s

end Sys2Proof.Machine
end

