-- ==== Sys2Proof/Machine/Dispatch.lean ====
section
/-! DEFINITION. The one dispatch: an arm for each constructor of Instr, each one call of its meaning. -/

namespace Sys2Proof.Machine

def exec (i : Instr) (s : State) : Host.Outcome State Fault Refusal :=
  match i with
  | .mcOp0 left right inv op shift mem => Sys2Proof.Machine.execMcOp0 left right inv op shift mem s
  | .mcHalt io st => Sys2Proof.Machine.execMcHalt io st s
  | .mcIoConn rdy di ei st => Sys2Proof.Machine.execMcIoConn rdy di ei st s
  | .mcIoRdy di ei st => Sys2Proof.Machine.execMcIoRdy di ei st s
  | .mcIoDi ei st => Sys2Proof.Machine.execMcIoDi ei st s
  | .mcIoEi st => Sys2Proof.Machine.execMcIoEi st s
  | .mcFlagsWb st => Sys2Proof.Machine.execMcFlagsWb st s
  | .mcCtrl cmp reg bit target => Sys2Proof.Machine.execMcCtrl cmp reg bit target s
  | .isz indirect addr => Sys2Proof.Machine.execIsz indirect addr s
  | .and indirect addr => Sys2Proof.Machine.execAnd indirect addr s
  | .jsr indirect addr => Sys2Proof.Machine.execJsr indirect addr s
  | .mov indirect addr => Sys2Proof.Machine.execMov indirect addr s
  | .add indirect addr => Sys2Proof.Machine.execAdd indirect addr s
  | .adc indirect addr => Sys2Proof.Machine.execAdc indirect addr s
  | .sub indirect addr => Sys2Proof.Machine.execSub indirect addr s
  | .bcs indirect addr => Sys2Proof.Machine.execBcs indirect addr s
  | .bpl indirect addr => Sys2Proof.Machine.execBpl indirect addr s
  | .bmi indirect addr => Sys2Proof.Machine.execBmi indirect addr s
  | .beq indirect addr => Sys2Proof.Machine.execBeq indirect addr s
  | .br indirect addr => Sys2Proof.Machine.execBr indirect addr s
  | .clf dev => Sys2Proof.Machine.execClf dev s
  | .tsf dev => Sys2Proof.Machine.execTsf dev s
  | .input dev => Sys2Proof.Machine.execInput dev s
  | .output dev => Sys2Proof.Machine.execOutput dev s
  | .hlt => Sys2Proof.Machine.execHlt s
  | .nop => Sys2Proof.Machine.execNop s
  | .cla => Sys2Proof.Machine.execCla s
  | .clc => Sys2Proof.Machine.execClc s
  | .cma => Sys2Proof.Machine.execCma s
  | .cmc => Sys2Proof.Machine.execCmc s
  | .rol => Sys2Proof.Machine.execRol s
  | .ror => Sys2Proof.Machine.execRor s
  | .inc => Sys2Proof.Machine.execInc s
  | .dec => Sys2Proof.Machine.execDec s
  | .ei => Sys2Proof.Machine.execEi s
  | .di => Sys2Proof.Machine.execDi s

end Sys2Proof.Machine
end

