-- ==== Sys2Proof/Machine/Step.lean ====
section
/-! DEFINITION. The one step of the core: micro_step (spec/44_sequencer.md R260) through `exec`. -/

namespace Sys2Proof.Machine

/-- micro_step (R260): no step from a state with a fault mark (R341); else the word at MPC is fetched and
recorded in MCR, the instruction the micro decoder reads from it is run, and MPC is advanced. -/
def step (s : State) : Host.Outcome State Fault Refusal :=
  match s.faultMark with
  | some f => .fault f
  | none =>
    match exec (decodeMicro (fetchWord s)) (fetched s) with
    | .next t => .next (advance t)
    | .fault f => .fault f
    | .refused r => .refused r

/-- The state with a word where the next step fetches: in MICRO at MPC, and no fault mark, since a
marked state has no step. It stands for the host's load of a microprogram (R375, log 8). -/
def State.withFetchWord (s : State) (nbits w : Nat) : State :=
  { s.setMicroWord s.mpc (BitVec.ofNat 16 (w % 2 ^ nbits)) with faultMark := none }

end Sys2Proof.Machine
end

