-- ==== Sys2Proof/Machine/HostPort.lean ====
section
/-! DEFINITION. What the host may do between two micro-steps (spec/60_exceptions.md R356, R268): the
register, flag, memory, device and log ports and reset_memory. None of these runs during a step. -/

namespace Sys2Proof.Machine

/-- The nine registers (spec/10_state.md R20). -/
inductive Reg where
  | a | cc | mpc | sr | br | ar | cr | dr | mcr
  deriving DecidableEq, Repr

/-- `get(r)` (R31). -/
def getReg (r : Reg) (s : State) : Nat :=
  match r with
  | .a => s.a.toNat
  | .cc => s.cc.toNat
  | .mpc => s.mpc.toNat
  | .sr => s.sr.toNat
  | .br => s.br.toNat
  | .ar => s.ar.toNat
  | .cr => s.cr.toNat
  | .dr => s.dr.toNat
  | .mcr => s.mcr.toNat

/-- `set(r, v)` for a 16-bit value (R32): the value masked to the register's width; BR bit 16 becomes
0 (D36). -/
def setReg (r : Reg) (v : Word) (s : State) : State :=
  match r with
  | .a => s.setA v
  | .cc => s.setCc v
  | .mpc => s.setMpc (v.setWidth 8)
  | .sr => s.setSr (v.setWidth 13)
  | .br => s.setBr (v.setWidth 17)
  | .ar => s.setAr v
  | .cr => s.setCr v
  | .dr => s.setDr v
  | .mcr => s.setMcr v

/-- `set_wide(BR, v)` (R33): `v & 0x1FFFF`. -/
def setWideBr (v : Nat) (s : State) : State := s.setBr (BitVec.ofNat 17 v)

/-- `flag(i)` (R34); an index above 12 does not exist. -/
def hostFlag (i : Nat) (s : State) : Option Bool :=
  if i < 13 then some (s.sr.getLsbD i) else none

/-- `set_flag(i, b)` (R34): every other bit is kept; an index above 12 is refused. -/
def hostSetFlag (i : Nat) (b : Bool) (s : State) : Option State :=
  if i < 13 then some (s.setSr (statusWithBit s.sr i b)) else none

/-- A host get of a cell (spec/20_memory.md R64); refused outside the bank (R67). -/
def hostGetCell (b : Bank) (i : Nat) (s : State) : Option Word := memRead b i s

/-- A host set of a cell (R64): the low 16 bits are stored; refused outside the bank with no change
(R67). -/
def hostSetCell (b : Bank) (i : Nat) (v : Nat) (s : State) : Option State :=
  memWrite b i (BitVec.ofNat 16 v) s

/-- A host get of a device (spec/45_io_protocol.md R287). -/
def hostGetDevice (d : DevIndex) (s : State) : Device := s.device d

/-- A host set of a device's data: its low 8 bits (R287). -/
def hostSetDeviceData (d : DevIndex) (v : Nat) (s : State) : State :=
  s.setDeviceData d (BitVec.ofNat 8 v)

/-- A host set of a device's ready flag, the only way a device becomes ready (R287). -/
def hostSetDeviceReady (d : DevIndex) (b : Bool) (s : State) : State := s.setDeviceReady d b

/-- Microcode memory zeroed and then loaded from an image: its pairs in list order (R371). -/
def microReload (image : List (MicroAddr × Word)) : MicroCells :=
  image.foldl (fun cells p => microStore cells p.1 p.2) (Vector.replicate 256 0#16)

/-- `reset_memory` (spec/70_reset_and_hazards.md R371): microcode memory zeroed and reloaded from the
boot image, general memory zeroed; nothing else changes (R372). -/
def resetMemory (s : State) : State :=
  { s with micro := microReload Config.bootImage, gen := [] }

/-- A host append to the log (R350). -/
def hostLog (text : Text) (s : State) : State := s.appendLog (.hostMessage text)

/-- Log clear (R350, R356). -/
def logClear (s : State) : State := { s with log := [] }

/-- Log drain (R350, R356): the entries, and the log emptied. -/
def logDrain (s : State) : List LogEntry × State := (s.log, logClear s)

end Sys2Proof.Machine
end

