-- ==== Sys2Proof/Machine/Render.lean ====
section
/-! DEFINITION. Disassembly text (spec/40_macro_decoder.md R135) and the host's views of registers
(spec/10_state.md R35). Reads state only; writes none (R137). -/

namespace Sys2Proof.Machine

/-- The name of a mnemonic (R131, R304). -/
def mnemonicName : Mnemonic → Text
  | .ISZ => ['I', 'S', 'Z']
  | .AND => ['A', 'N', 'D']
  | .JSR => ['J', 'S', 'R']
  | .MOV => ['M', 'O', 'V']
  | .ADD => ['A', 'D', 'D']
  | .ADC => ['A', 'D', 'C']
  | .SUB => ['S', 'U', 'B']
  | .BCS => ['B', 'C', 'S']
  | .BPL => ['B', 'P', 'L']
  | .BMI => ['B', 'M', 'I']
  | .BEQ => ['B', 'E', 'Q']
  | .BR => ['B', 'R']
  | .CLF => ['C', 'L', 'F']
  | .TSF => ['T', 'S', 'F']
  | .IN => ['I', 'N']
  | .OUT => ['O', 'U', 'T']
  | .HLT => ['H', 'L', 'T']
  | .NOP => ['N', 'O', 'P']
  | .CLA => ['C', 'L', 'A']
  | .CLC => ['C', 'L', 'C']
  | .CMA => ['C', 'M', 'A']
  | .CMC => ['C', 'M', 'C']
  | .ROL => ['R', 'O', 'L']
  | .ROR => ['R', 'O', 'R']
  | .INC => ['I', 'N', 'C']
  | .DEC => ['D', 'E', 'C']
  | .EI => ['E', 'I']
  | .DI => ['D', 'I']

/-- One upper-case hexadecimal digit. -/
def hexDigit (n : Nat) : Char :=
  if n % 16 < 10 then Char.ofNat (48 + n % 16) else Char.ofNat (55 + n % 16)

/-- The `digits` low hexadecimal digits of `n`, with leading zeros. -/
def hexText (digits : Nat) (n : Nat) : Text :=
  match digits with
  | 0 => []
  | k + 1 => hexText k (n / 16) ++ [hexDigit n]

/-- The rendering of a macro row with its operands (R135). -/
def renderRow (m : Mnemonic) (indirect : Bool) (addr : GenAddr) (dev : DevIndex) : Text :=
  match m.kind with
  | .simple => mnemonicName m
  | .address =>
    if indirect then mnemonicName m ++ [' ', '('] ++ hexText 3 addr.toNat ++ [')']
    else mnemonicName m ++ [' '] ++ hexText 3 addr.toNat
  | .io => mnemonicName m ++ [' '] ++ hexText 1 dev.toNat

/-- The rendering of an instruction (R135); a micro-instruction has no disassembly text. -/
def render (i : Instr) : Option Text :=
  match i with
  | .mcOp0 .. | .mcHalt .. | .mcIoConn .. | .mcIoRdy .. | .mcIoDi .. | .mcIoEi .. | .mcFlagsWb ..
  | .mcCtrl .. => none
  | .isz x addr => some (renderRow .ISZ x addr 0#4)
  | .and x addr => some (renderRow .AND x addr 0#4)
  | .jsr x addr => some (renderRow .JSR x addr 0#4)
  | .mov x addr => some (renderRow .MOV x addr 0#4)
  | .add x addr => some (renderRow .ADD x addr 0#4)
  | .adc x addr => some (renderRow .ADC x addr 0#4)
  | .sub x addr => some (renderRow .SUB x addr 0#4)
  | .bcs x addr => some (renderRow .BCS x addr 0#4)
  | .bpl x addr => some (renderRow .BPL x addr 0#4)
  | .bmi x addr => some (renderRow .BMI x addr 0#4)
  | .beq x addr => some (renderRow .BEQ x addr 0#4)
  | .br x addr => some (renderRow .BR x addr 0#4)
  | .clf dev => some (renderRow .CLF false 0#11 dev)
  | .tsf dev => some (renderRow .TSF false 0#11 dev)
  | .input dev => some (renderRow .IN false 0#11 dev)
  | .output dev => some (renderRow .OUT false 0#11 dev)
  | .hlt => some (renderRow .HLT false 0#11 0#4)
  | .nop => some (renderRow .NOP false 0#11 0#4)
  | .cla => some (renderRow .CLA false 0#11 0#4)
  | .clc => some (renderRow .CLC false 0#11 0#4)
  | .cma => some (renderRow .CMA false 0#11 0#4)
  | .cmc => some (renderRow .CMC false 0#11 0#4)
  | .rol => some (renderRow .ROL false 0#11 0#4)
  | .ror => some (renderRow .ROR false 0#11 0#4)
  | .inc => some (renderRow .INC false 0#11 0#4)
  | .dec => some (renderRow .DEC false 0#11 0#4)
  | .ei => some (renderRow .EI false 0#11 0#4)
  | .di => some (renderRow .DI false 0#11 0#4)

/-- The disassembly of a word (R130, R135): the rendering of the row the scan selects. -/
def disassemble (w : Word) : Text :=
  renderRow (selectRow w) (w.getLsbD 11) (w.extractLsb' 0 11) (w.extractLsb' 0 4)

/-- The hexadecimal digits a register's raw view takes: one for each four bits of its width. -/
def regDigits : Reg → Nat
  | .a | .cr | .dr | .mcr => 4
  | .cc | .ar => 3
  | .mpc => 2
  | .sr => 4
  | .br => 5

/-- The raw-hex view of a register (R35). -/
def rawView (r : Reg) (s : State) : Text := hexText (regDigits r) (getReg r s)

/-- The mnemonic view of CR (R35): a rendering only. -/
def commandView (s : State) : Text := disassemble s.cr

end Sys2Proof.Machine
end

