-- ==== Sys2Proof/Machine/Assembler.lean ====
section
/-! DEFINITION. The encode direction of the macro codec (spec/46_assembler_loader.md R300 to R304): text
to instruction, host-side software the spec fixes. -/

namespace Sys2Proof.Machine

/-- The errors of encode (R303). -/
inductive AsmError where
  | unknownMnemonic
  | missingOperand
  | extraOperand
  | unmatchedParen
  | outOfRange
  | malformedHex
  deriving DecidableEq, Repr

/-- The whitespace-separated tokens of a text; `acc` holds the token being read, reversed. -/
def tokensFrom (acc : Text) (t : Text) : List Text :=
  match t with
  | [] => if acc.isEmpty then [] else [acc.reverse]
  | c :: rest =>
    if c.isWhitespace then
      (if acc.isEmpty then tokensFrom [] rest else acc.reverse :: tokensFrom [] rest)
    else tokensFrom (c :: acc) rest

/-- The whitespace-separated tokens of a text (R300). -/
def tokens (t : Text) : List Text := tokensFrom [] t

/-- The value of a hexadecimal digit, 0-9, A-F or a-f (R304). -/
def hexValue (c : Char) : Option Nat :=
  let n := c.toNat
  if 48 ≤ n ∧ n ≤ 57 then some (n - 48)
  else if 65 ≤ n ∧ n ≤ 70 then some (n - 55)
  else if 97 ≤ n ∧ n ≤ 102 then some (n - 87)
  else none

/-- The value of hexadecimal digits after those already read as `acc`. -/
def parseHexFrom (acc : Nat) (t : Text) : Option Nat :=
  match t with
  | [] => some acc
  | c :: rest =>
    match hexValue c with
    | some d => parseHexFrom (acc * 16 + d) rest
    | none => none

/-- A hexadecimal literal without a prefix (R304); no digits is malformed. -/
def parseHex (t : Text) : Option Nat :=
  match t with
  | [] => none
  | c :: rest => parseHexFrom 0 (c :: rest)

/-- The row of a name, matched exactly (R304). -/
def mnemonicOf (t : Text) : Option Mnemonic :=
  scanOrder.find? fun m => mnemonicName m == t

/-- A number of at most `limit`, or the error of its literal (R301, R302). -/
def numberUpTo (limit : Nat) (t : Text) : Except AsmError Nat :=
  match parseHex t with
  | none => .error .malformedHex
  | some n => if n ≤ limit then .ok n else .error .outOfRange

/-- An address operand (R301): a number up to 0x7FF, in parentheses when indirect. -/
def addressOperand (t : Text) : Except AsmError (Bool × Nat) :=
  match t with
  | '(' :: rest =>
    if rest.getLast? = some ')' then
      match numberUpTo 0x7FF rest.dropLast with
      | .ok n => .ok (true, n)
      | .error e => .error e
    else .error .unmatchedParen
  | _ =>
    if t.getLast? = some ')' then .error .unmatchedParen
    else
      match numberUpTo 0x7FF t with
      | .ok n => .ok (false, n)
      | .error e => .error e

/-- The instruction of a row and the operand tokens after its name (R300 to R303). -/
def assembleRow (m : Mnemonic) (operands : List Text) : Except AsmError Instr :=
  match m.kind, operands with
  | .simple, [] => .ok (instrOf m false 0#11 0#4)
  | .simple, _ :: _ => .error .extraOperand
  | .address, [] => .error .missingOperand
  | .address, [t] =>
    match addressOperand t with
    | .ok (x, n) => .ok (instrOf m x (BitVec.ofNat 11 n) 0#4)
    | .error e => .error e
  | .address, _ :: _ :: _ => .error .extraOperand
  | .io, [] => .error .missingOperand
  | .io, [t] =>
    match numberUpTo 0xF t with
    | .ok n => .ok (instrOf m false 0#11 (BitVec.ofNat 4 n))
    | .error e => .error e
  | .io, _ :: _ :: _ => .error .extraOperand

/-- The instruction of a text already split into tokens (R300). A text without a mnemonic names none. -/
def assembleTokens (ts : List Text) : Except AsmError Instr :=
  match ts with
  | [] => .error .unknownMnemonic
  | name :: operands =>
    match mnemonicOf name with
    | none => .error .unknownMnemonic
    | some m => assembleRow m operands

/-- The instruction of a text. -/
def assemble (t : Text) : Except AsmError Instr := assembleTokens (tokens t)

/-- `encode(text)` (R300): the word of the instruction the text names. -/
def encodeText (t : Text) : Except AsmError Word :=
  match assemble t with
  | .ok i => .ok (encode i)
  | .error e => .error e

end Sys2Proof.Machine
end

