-- ==== Sys2Proof/Machine/Loader.lean ====
section
/-! DEFINITION. The program loaders (spec/46_assembler_loader.md R310 to R325): the symbolic and card
formats into a bank, and the boot image format. A load either applies every cell it places or, on the
first error, nothing (R317). -/

namespace Sys2Proof.Machine

/-- The human-readable cause of a load error (R317). -/
inductive LoadCause where
  | unknownOperator
  | malformedOperator
  | malformedHex
  | cursorBackward
  | cursorPastBank
  | outOfBank
  | duplicateLabel
  | undefinedLabel
  | assembler (e : AsmError)
  | malformedLine
  | missingSign
  | valueOutOfRange
  deriving DecidableEq, Repr

/-- A load error: the line's number from 1, its text and the cause (R310, R317). -/
structure LoadError where
  line : Nat
  text : Text
  cause : LoadCause
  deriving DecidableEq, Repr

/-- A line with its number. -/
structure Line where
  number : Nat
  text : Text
  deriving DecidableEq, Repr

/-- The error of a line. -/
def lineError (l : Line) (c : LoadCause) : LoadError := ⟨l.number, l.text, c⟩

/-- The lines of a text from number `n`; `acc` holds the line being read, reversed. -/
def linesFrom (n : Nat) (acc : Text) (t : Text) : List Line :=
  match t with
  | [] => [⟨n, acc.reverse⟩]
  | c :: rest =>
    if c = '\n' then ⟨n, acc.reverse⟩ :: linesFrom (n + 1) [] rest else linesFrom n (c :: acc) rest

/-- The lines of a text, numbered from 1 (R310). -/
def linesOf (t : Text) : List Line := linesFrom 1 [] t

/-- A line's text before a trailing comment (R310). -/
def withoutComment (t : Text) : Text := t.takeWhile fun c => c != '#'

/-- Cells to place, in program order. -/
abbrev Cells := List (Nat × Word)

/-! ## Symbolic format -/

/-- A command line: where its word goes and the tokens of its instruction text (R312, R316). -/
structure Command where
  line : Line
  index : Nat
  body : List Text
  deriving DecidableEq, Repr

/-- What the first pass collects: the write cursor, the labels and the command lines, newest first. -/
structure Scan where
  cursor : Nat
  labels : List (Text × Nat)
  commands : List Command
  deriving DecidableEq, Repr

/-- An operator line (R311): `$pos <hex>` and nothing else. -/
def scanOperator (size : Nat) (l : Line) (ts : List Text) (st : Scan) : Except LoadError Scan :=
  match ts with
  | [op, arg] =>
    if op = ['$', 'p', 'o', 's'] then
      match parseHex arg with
      | none => .error (lineError l .malformedHex)
      | some n =>
        if n < st.cursor then .error (lineError l .cursorBackward)
        else if size < n then .error (lineError l .cursorPastBank)
        else .ok { st with cursor := n }
    else .error (lineError l .unknownOperator)
  | op :: _ =>
    if op = ['$', 'p', 'o', 's'] then .error (lineError l .malformedOperator)
    else .error (lineError l .unknownOperator)
  | [] => .error (lineError l .unknownOperator)

/-- The optional trailing label of a command line: its last token when that starts with `$` (R312). -/
def splitLabel (ts : List Text) : List Text × Option Text :=
  match ts.getLast? with
  | some ('$' :: name) => (ts.dropLast, some name)
  | _ => (ts, none)

/-- A command line at the cursor (R312, R313, R316): the label is the cursor after the word. -/
def scanCommand (size : Nat) (l : Line) (ts : List Text) (st : Scan) : Except LoadError Scan :=
  let (body, label) := splitLabel ts
  if st.cursor < size then
    let next : Scan :=
      { st with cursor := st.cursor + 1, commands := ⟨l, st.cursor, body⟩ :: st.commands }
    match label with
    | none => .ok next
    | some name =>
      if (st.labels.lookup name).isSome then .error (lineError l .duplicateLabel)
      else .ok { next with labels := (name, st.cursor + 1) :: st.labels }
  else .error (lineError l .outOfBank)

/-- One line of the first pass (R310 to R313): blank and comment-only lines are skipped. -/
def scanLine (size : Nat) (l : Line) (st : Scan) : Except LoadError Scan :=
  match tokens (withoutComment l.text) with
  | [] => .ok st
  | ('$' :: name) :: rest => scanOperator size l (('$' :: name) :: rest) st
  | t :: rest => scanCommand size l (t :: rest) st

/-- The first pass over all lines (R314: labels are collected across the whole file). -/
def scanLines (size : Nat) (ls : List Line) (st : Scan) : Except LoadError Scan :=
  match ls with
  | [] => .ok st
  | l :: rest =>
    match scanLine size l st with
    | .error e => .error e
    | .ok st' => scanLines size rest st'

/-- The hexadecimal digits of a number without leading zeros, at most `fuel` of them. -/
def shortHex (fuel : Nat) (n : Nat) : Text :=
  match fuel with
  | 0 => []
  | k + 1 => if n < 16 then [hexDigit n] else shortHex k (n / 16) ++ [hexDigit n]

/-- Whether a character can stand in a label name inside instruction text: not a parenthesis and not
another label's mark (log 9). -/
def inLabel (c : Char) : Bool := c != '(' && c != ')' && c != '%'

/-- A token with every `%label` replaced by the label's value in hexadecimal (R314). `name` holds the
label name being read, reversed, where one is being read. The rule speaks of a `%label` token; DESIGN
CHOICE (log 9): a percent sign begins a reference wherever it stands in a token, also after other
characters, and the value's digits stand among them, so `(%x)` and `1%x` are substituted in place. -/
def substituteFrom (labels : List (Text × Nat)) (name : Option Text) (t : Text) :
    Except LoadCause Text :=
  let value (n : Text) : Except LoadCause Text :=
    match labels.lookup n.reverse with
    | some v => .ok (shortHex 8 v)
    | none => .error .undefinedLabel
  match t, name with
  | [], none => .ok []
  | [], some n => value n
  | c :: rest, none =>
    if c = '%' then substituteFrom labels (some []) rest
    else (substituteFrom labels none rest).map (c :: ·)
  | c :: rest, some n =>
    if inLabel c then substituteFrom labels (some (c :: n)) rest
    else
      match value n with
      | .error e => .error e
      | .ok v =>
        if c = '%' then (substituteFrom labels (some []) rest).map (v ++ ·)
        else (substituteFrom labels none rest).map fun r => v ++ c :: r

/-- All tokens of a body after substitution. -/
def substituteAll (labels : List (Text × Nat)) (ts : List Text) : Except LoadCause (List Text) :=
  match ts with
  | [] => .ok []
  | t :: rest =>
    match substituteFrom labels none t, substituteAll labels rest with
    | .error e, _ => .error e
    | .ok _, .error e => .error e
    | .ok t', .ok rest' => .ok (t' :: rest')

/-- Exactly four hexadecimal digits (R315). -/
def rawWord (ts : List Text) : Except LoadCause Word :=
  match ts with
  | [t] =>
    if t.length = 4 then
      match parseHex t with
      | some n => .ok (BitVec.ofNat 16 n)
      | none => .error .malformedHex
    else .error .malformedHex
  | _ => .error .malformedHex

/-- The word of an instruction text (R315): the codec when the first token is a known mnemonic, and its
errors are then final; else a raw word. -/
def resolveWord (ts : List Text) : Except LoadCause Word :=
  match ts with
  | [] => .error .malformedHex
  | name :: operands =>
    match mnemonicOf name with
    | some m =>
      match assembleRow m operands with
      | .ok i => .ok (encode i)
      | .error e => .error (.assembler e)
    | none => rawWord (name :: operands)

/-- The second pass: every command's word at its index (R314 to R316). -/
def resolveCommands (labels : List (Text × Nat)) (cs : List Command) : Except LoadError Cells :=
  match cs with
  | [] => .ok []
  | c :: rest =>
    match substituteAll labels c.body with
    | .error e => .error (lineError c.line e)
    | .ok ts =>
      match resolveWord ts with
      | .error e => .error (lineError c.line e)
      | .ok w =>
        match resolveCommands labels rest with
        | .error e => .error e
        | .ok cells => .ok ((c.index, w) :: cells)

/-- The sparse program image of a symbolic text for a bank of `size` cells (R317). -/
def symbolicImage (size : Nat) (t : Text) : Except LoadError Cells :=
  match scanLines size (linesOf t) ⟨0, [], []⟩ with
  | .error e => .error e
  | .ok st => resolveCommands st.labels st.commands.reverse

/-! ## Card format -/

/-- What a card text gives: its cells and the address of its last `+` line (R320, R322). -/
structure CardImage where
  cells : Cells
  start : Option Nat
  deriving DecidableEq, Repr

/-- A card line `<hex address> <±><hex value>` (R320, R321): the cell, and whether it marks the start. -/
def cardLine (size : Nat) (l : Line) (address value : Text) : Except LoadError (Nat × Word × Bool) :=
  match parseHex address, value with
  | none, _ => .error (lineError l .malformedHex)
  | some i, c :: digits =>
    if c = '+' ∨ c = '-' then
      match parseHex digits with
      | none => .error (lineError l .malformedHex)
      | some n =>
        if 0xFFFF < n then .error (lineError l .valueOutOfRange)
        else if i < size then .ok (i, BitVec.ofNat 16 n, c == '+')
        else .error (lineError l .outOfBank)
    else .error (lineError l .missingSign)
  | some _, [] => .error (lineError l .missingSign)

/-- The cards of a text in order; blank lines are skipped (log 10), and a later `+` line wins (R322). -/
def cardLines (size : Nat) (ls : List Line) (acc : CardImage) : Except LoadError CardImage :=
  match ls with
  | [] => .ok acc
  | l :: rest =>
    match tokens l.text with
    | [] => cardLines size rest acc
    | [address, value] =>
      match cardLine size l address value with
      | .error e => .error e
      | .ok (i, w, starts) =>
        cardLines size rest
          ⟨acc.cells ++ [(i, w)], if starts then some i else acc.start⟩
    | _ => .error (lineError l .malformedLine)

/-- The image of a card text for a bank of `size` cells. -/
def cardImage (size : Nat) (t : Text) : Except LoadError CardImage :=
  cardLines size (linesOf t) ⟨[], none⟩

/-! ## Boot image format -/

/-- The pairs of a boot image text, `<hex address> <hex value>` (R325). -/
def bootLines (ls : List Line) : Except LoadError (List (MicroAddr × Word)) :=
  match ls with
  | [] => .ok []
  | l :: rest =>
    match tokens l.text with
    | [] => bootLines rest
    | [address, value] =>
      match parseHex address, parseHex value with
      | some i, some n =>
        if i < Config.microWords then
          if n ≤ 0xFFFF then
            match bootLines rest with
            | .error e => .error e
            | .ok ps => .ok ((BitVec.ofNat 8 i, BitVec.ofNat 16 n) :: ps)
          else .error (lineError l .valueOutOfRange)
        else .error (lineError l .outOfBank)
      | _, _ => .error (lineError l .malformedHex)
    | _ => .error (lineError l .malformedLine)

/-- The boot image a text lists (R325). -/
def parseBootImage (t : Text) : Except LoadError (List (MicroAddr × Word)) := bootLines (linesOf t)

/-! ## Applying an image -/

/-- Every cell of an image written in its order; a cell outside the bank would be refused (R67). -/
def placeCells (b : Bank) (cells : Cells) (s : State) : Option State :=
  match cells with
  | [] => some s
  | c :: rest =>
    match memWrite b c.1 c.2 s with
    | some t => placeCells b rest t
    | none => none

/-- A symbolic load into a bank (R310 to R318): no register changes. -/
def loadSymbolic (b : Bank) (t : Text) (s : State) : Except LoadError State :=
  match symbolicImage b.size t with
  | .error e => .error e
  | .ok cells =>
    match placeCells b cells s with
    | some u => .ok u
    | none => .error ⟨0, [], .outOfBank⟩

/-- A card load into a bank (R320 to R322): `CC <- start & 0x7FF` after it where a start is marked. -/
def loadCard (b : Bank) (t : Text) (s : State) : Except LoadError State :=
  match cardImage b.size t with
  | .error e => .error e
  | .ok image =>
    match placeCells b image.cells s with
    | none => .error ⟨0, [], .outOfBank⟩
    | some u =>
      match image.start with
      | none => .ok u
      | some i => .ok (u.setCc (BitVec.ofNat 16 i))

end Sys2Proof.Machine
end

