-- ==== Sys2Proof/Machine/Run.lean ====
section
/-! DEFINITION. The two loops of the host over micro_step: the macro step (spec/44_sequencer.md R263)
and the continuous run (R266). They belong to the host, not to the core. -/

namespace Sys2Proof.Machine

/-- The host's macro step on the state as it is (R263): micro_step until Halted, bounded (R267). The
macro word is whatever the microprogram reads. -/
def hostMacroStep (s : State) : Host.Outcome State Fault Refusal := runMacro Config.macroFuel s

/-- Why a continuous run ended (R267). -/
inductive RunEnd where
  /-- a step returned Halted -/
  | halted
  /-- SR bit 7 was 0 before a step -/
  | leverDown
  /-- the batch is used up -/
  | batchUsed
  /-- a step raised a fault, or the state was marked already (R341) -/
  | faulted (f : Fault)
  /-- a step was refused; no step of this model is -/
  | refused (r : Refusal)
  deriving DecidableEq, Repr

/-- At most `n` micro-steps (R266): the lever is checked before each step (D28), and the run stops on
Halted. -/
def runBatch (n : Nat) (s : State) : RunEnd × State :=
  match n with
  | 0 => (.batchUsed, s)
  | k + 1 =>
    if s.flag .runLever then
      match step s with
      | .next t =>
        match t.faultMark with
        | some f => (.faulted f, t)
        | none => if t.outcome = some .halted then (.halted, t) else runBatch k t
      | .fault f => (.faulted f, s)
      | .refused r => (.refused r, s)
    else (.leverDown, s)

/-- One continuous-run call (R266): at most HOST_BATCH micro-steps. -/
def continuousRun (s : State) : RunEnd × State := runBatch Config.hostBatch s

/-- `n` micro-steps and no more, whatever they return: the host driving by single steps (R222, R268). -/
def stepMany (n : Nat) (s : State) : Host.Outcome State Fault Refusal :=
  match n with
  | 0 => .next s
  | k + 1 =>
    match step s with
    | .next t => stepMany k t
    | .fault f => .fault f
    | .refused r => .refused r

/-- From `s` the `n`-th micro-step is the first that returns Halted, and leaves `t`: the macro step of
R263 as a relation. -/
def HaltsIn (n : Nat) (s t : State) : Prop :=
  match n with
  | 0 => False
  | k + 1 =>
    ∃ u, step s = .next u ∧
      ((u.outcome = some .halted ∧ k = 0 ∧ t = u) ∨
        (u.outcome ≠ some .halted ∧ u.faultMark = none ∧ HaltsIn k u t))

end Sys2Proof.Machine
end

