-- ==== Sys2Proof/WellFormed.lean ====
section
/-! DEFINITION. Well-formed instructions. Every operand has the type of its range, so the one thing the
spec can object to in a decoded term is an OP0 field it consults that holds the unlisted code 11
(spec/30_encoding.md R96(b), spec/41_micro_alu.md R203). -/

namespace Sys2Proof

/-- Whether a field holds a code of the source's list (R91). -/
def Code.isListed {α : Type} : Code α → Bool
  | .listed _ => true
  | .unlisted => false

/-- Whether an OP0 word consults no field that holds 11: SHIFT always, and INV, OP and MEM only where
no shift is active (R96, R203, R344). -/
def Op0Listed (inv : Code Inv) (op : Code AluOp) (shift : Code Shift) (mem : Code Mem) : Bool :=
  match shift with
  | .unlisted => false
  | .listed .right => true
  | .listed .left => true
  | .listed .none => inv.isListed && op.isListed && mem.isListed

/-- An instruction the spec gives an effect other than a fault on every state. -/
def Instr.wellFormed : Instr → Bool
  | .mcOp0 _ _ inv op shift mem => Op0Listed inv op shift mem
  | .mcHalt .. | .mcIoConn .. | .mcIoRdy .. | .mcIoDi .. | .mcIoEi .. | .mcFlagsWb ..
  | .mcCtrl .. => true
  | .isz .. | .and .. | .jsr .. | .mov .. | .add .. | .adc .. | .sub .. | .bcs .. | .bpl .. | .bmi ..
  | .beq .. | .br .. | .clf .. | .tsf .. | .input .. | .output .. | .hlt | .nop | .cla | .clc | .cma
  | .cmc | .rol | .ror | .inc | .dec | .ei | .di => true

end Sys2Proof
end

