-- ==== Sys2Proof/Safety.lean ====
section
/-! DEFINITION. What counts as a safe state and a safe microprogram, and the premises of the spec's own
claims (spec/70_reset_and_hazards.md R375, R380). -/

namespace Sys2Proof.Machine

/-- A state with no fault mark: one that has a further step (spec/60_exceptions.md R341). -/
def Unmarked (s : State) : Prop := s.faultMark = none

/-- Every word of MICRO is well-formed: no OP0 word consults an unlisted field (R96, R203). -/
def MicroprogramWellFormed (s : State) : Prop :=
  ∀ i : MicroAddr, (decodeMicro (s.microWord i)).wellFormed = true

/-- A safe state: it has a step, and no word its microprogram can reach raises a fault. -/
def Safe (s : State) : Prop := Unmarked s ∧ MicroprogramWellFormed s

/-- What every step keeps, in every state: general memory in canonical form inside its bank (R60), and the
log within its capacity (R350). -/
def Invariant (s : State) : Prop := genWf s.gen = true ∧ s.log.length ≤ Config.logCapacity

/-- The fault mark and the recorded outcome agree: a mark is there exactly when the last micro-step
returned Fault (R341). -/
def MarkAgrees (s : State) : Prop := s.faultMark.isSome = true ↔ s.outcome = some .fault

/-- Launch premises (a) and (b) of R380: no fault mark, and the constant-zero flag is 0. -/
def LaunchPremises (s : State) : Prop := Unmarked s ∧ s.flag .constantZero = false

/-- The host's boot duties that the state can show (R375): the program counter at the start and the lever
up where continuous run is used. -/
def BootReady (start : GenAddr) (continuous : Bool) (s : State) : Prop :=
  s.cc = start ∧ (continuous = true → s.flag .runLever = true)

/-- The SR bits no rule of the core writes: 3, 5, 7, 8, 9, 10 and 11 (spec/10_state.md R36). -/
def HostFlagsKept (s t : State) : Prop :=
  t.flag .constantZero = s.flag .constantZero ∧ t.flag .interruptPending = s.flag .interruptPending ∧
  t.flag .runLever = s.flag .runLever ∧ t.flag .programMode = s.flag .programMode ∧
  t.flag .inert9 = s.flag .inert9 ∧ t.flag .inert10 = s.flag .inert10 ∧
  t.flag .executeByTick = s.flag .executeByTick

end Sys2Proof.Machine
end

