-- ==== Sys2Proof/Certificates/Slice0/Obligations.lean ====
section
/-! DEFINITION. The statements for the provers. Values are written on naturals, as the spec's pseudocode
has them (R11), and not with the model's own functions, where the statement says what an instruction
computes. `t = { s with ... }` is a frame: every field not named is unchanged. `outcome` is where the model keeps what
micro_step returns (R261, log 1); a fault is a next state with the mark set (log 7); a macro instruction is
one macro step on its word at GEN[CC] (log 6). -/

open Sys2Proof Sys2Proof.Machine

namespace Sys2Proof.Spec

/-! ## Values on naturals -/

/-- The left operand (R195, R28). -/
def leftValue (l : LeftSel) (s : State) : Nat :=
  match l with
  | .none => 0
  | .a => s.a.toNat
  | .sr => s.sr.toNat
  | .cr => s.cr.toNat

/-- The right operand (R196, R28). -/
def rightValue (r : RightSel) (s : State) : Nat :=
  match r with
  | .none => 0
  | .dr => s.dr.toNat
  | .cr => s.cr.toNat
  | .cc => s.cc.toNat

/-- The 16-bit one's complement, where selected (R197). -/
def complemented (selected : Bool) (v : Nat) : Nat := if selected then 65535 - v else v

/-- The ALU result (R198). -/
def aluValue (op : AluOp) (l r : Nat) : Nat :=
  match op with
  | .sum => l + r
  | .sumPlusOne => l + r + 1
  | .and => l &&& r

/-- The register a control word tests (R251, R28). -/
def controlValue (r : CtrlReg) (s : State) : Nat :=
  match r with
  | .sr => s.sr.toNat
  | .dr => s.dr.toNat
  | .cr => s.cr.toNat
  | .a => s.a.toNat

/-- `BR[15:0]` (R26). -/
def low (s : State) : Nat := s.br.toNat % 65536

/-- DR bits 9..8, which select the case of the I/O protocol (R280). -/
def ioSelector (s : State) : Nat := s.dr.toNat / 256 % 4

/-- DR[3:0], the device the protocol addresses (R280). -/
def ioTarget (s : State) : DevIndex := BitVec.ofNat 4 s.dr.toNat

/-- The width of a register (R20). -/
def regWidth : Reg → Nat
  | .a | .cr | .dr | .mcr => 16
  | .cc | .ar => 11
  | .mpc => 8
  | .sr => 13
  | .br => 17

/-- A connect word with no other I/O flag. -/
def connectOnly (i : Instr) : Prop := ∃ st, i = .mcIoConn false false false st

/-- A halt word. -/
def isHalt (i : Instr) : Prop := ∃ io st, i = .mcHalt io st

/-- The state stands where its microprogram serves the macro word `w`: no fault mark, DR and CR hold the
word, MICRO holds a connect word at MPC and a halt word after it (R168 to R171). -/
def AtConnect (w : Word) (s : State) : Prop :=
  s.faultMark = none ∧ s.dr = w ∧ s.cr = w ∧ connectOnly (decodeMicro (s.microWord s.mpc)) ∧
    isHalt (decodeMicro (s.microWord (s.mpc + 1#8)))

/-- Two states that differ at most in MCR, the log and the recorded outcome. -/
def SameButDiagnostics (s t : State) : Prop :=
  t = { s with mcr := t.mcr, log := t.log, outcome := t.outcome }

/-- MICRO holds these micro-instructions, the first at MPC, and no fault is marked. -/
def Holds (ws : List Instr) (s : State) : Prop :=
  s.faultMark = none ∧
    ∀ k, k < ws.length → ws[k]? = some (decodeMicro (s.microWord (s.mpc + BitVec.ofNat 8 k)))

/-- An OP0 word without a shift, every field listed. -/
def aluWord (l : LeftSel) (r : RightSel) (inv : Inv) (op : AluOp) (mem : Mem) : Instr :=
  .mcOp0 l r (.listed inv) (.listed op) (.listed .none) (.listed mem)

/-- An OP0 word with an active shift. -/
def shiftWord (d : Shift) : Instr :=
  .mcOp0 .none .none (.listed .none) (.listed .sum) (.listed d) (.listed .none)

/-- The halt word 0x4008. -/
def haltWord : Instr := .mcHalt ⟨false, false, false, false⟩ ⟨.keep, .none, .none⟩

/-- The cell at AR where the macro instruction's own word stands at CC. -/
def cellAtAr (i : Instr) (s : State) : Nat :=
  if s.ar = s.cc then (encode i).toNat else (s.genWord s.ar).toNat

/-- What one card says (R320): an address, whether its sign is a plus, and a value. -/
structure Card where
  address : Nat
  plus : Bool
  value : Nat

/-- A card the loader accepts for a bank (R321). -/
def Card.inRange (c : Card) (b : Bank) : Prop := c.address < b.size ∧ c.value ≤ 65535

/-- The text of a line is that of the card (R320): a hexadecimal address, then a sign and a hexadecimal
value. -/
def IsCard (text : Text) (c : Card) : Prop :=
  ∃ address digits, tokens text = [address, (if c.plus then '+' else '-') :: digits] ∧
    parseHex address = some c.address ∧ parseHex digits = some c.value

/-- The lines are those of the cards, in order, with nothing else but blank lines (log 10). -/
def CardsOf (ls : List Line) (cards : List Card) : Prop :=
  match ls with
  | [] => cards = []
  | l :: rest =>
    (tokens l.text = [] ∧ CardsOf rest cards) ∨
      ∃ c later, cards = c :: later ∧ IsCard l.text c ∧ CardsOf rest later

/-- The flags of `s` with one of them given. -/
def withFlag (g : Flag) (b : Bool) (s : State) : Flag → Bool :=
  fun f => if f = g then b else s.flag f

/-- Every cell of general memory as before, but for the macro instruction's word at CC. -/
def OnlyWordPlaced (i : Instr) (s t : State) : Prop :=
  ∀ j, t.genWord j = if j = s.cc then encode i else s.genWord j

/-- A macro arithmetic result: A is the sum modulo 2^16, C as given, Z and N follow A; of the rest only BR,
DR, MPC, MCR and the word's own cell may differ. -/
def Arithmetic (i : Instr) (sum : Nat) (carry : Bool) (s : State) : Prop :=
  ∃ t, exec i s = .next t ∧ t.a.toNat = sum % 65536 ∧ t.flag .carry = carry ∧
    t.flag .zero = decide (sum % 65536 = 0) ∧ t.flag .negative = sum.testBit 15 ∧
    (∀ f, f ≠ .carry → f ≠ .zero → f ≠ .negative → t.flag f = s.flag f) ∧
    OnlyWordPlaced i s t ∧
    t = { s with a := t.a, mpc := t.mpc, sr := t.sr, br := t.br, dr := t.dr, mcr := t.mcr,
                 gen := t.gen, outcome := some .halted }

/-- What a macro instruction leaves that stores nothing and changes no device: A, every flag and CC as
given; of the rest only BR, MPC, MCR and the word's own cell may differ. -/
def Leaves (i : Instr) (a : Nat) (flags : Flag → Bool) (cc : Nat) (s : State) : Prop :=
  ∃ t, exec i s = .next t ∧ t.a.toNat = a ∧ (∀ f, t.flag f = flags f) ∧ t.cc.toNat = cc ∧
    OnlyWordPlaced i s t ∧
    t = { s with a := t.a, cc := t.cc, mpc := t.mpc, sr := t.sr, br := t.br, mcr := t.mcr,
                 gen := t.gen, outcome := some .halted }

/-- What a macro instruction leaves that stores in the cell at AR: the word stored, and CC; of the rest only
BR, DR, MPC, MCR and the word's own cell may differ. -/
def Stores (i : Instr) (v : Nat) (cc : Nat) (s : State) : Prop :=
  ∃ t, exec i s = .next t ∧ t.cc.toNat = cc ∧ (t.genWord s.ar).toNat = v ∧
    (∀ j, j ≠ s.ar → t.genWord j = if j = s.cc then encode i else s.genWord j) ∧
    t = { s with cc := t.cc, mpc := t.mpc, br := t.br, dr := t.dr, mcr := t.mcr, gen := t.gen,
                 outcome := some .halted }

end Sys2Proof.Spec

open Sys2Proof.Spec

/-! ## Encoding -/

/-- The micro decoder reads back what the encoder writes, for every micro-instruction (R91 to R95). -/
def Obligations.MicroDecodeReadsBackEncode : Prop :=
  ∀ i : Instr, i.level = .micro → decodeMicro (encode i) = i

/-- Every canonical macro word decodes to its own row and operand (R133). -/
def Obligations.MacroDecodeReadsBackEncode : Prop :=
  (∀ i : Instr, i.level = .visible → decodeMacro (encode i) = i) ∧
  (∀ (m : Mnemonic) (x : Bool) (addr : GenAddr), m.kind = .address →
    selectRow (addressWord m x addr) = m) ∧
  (∀ (m : Mnemonic) (dev : DevIndex), m.kind = .io → selectRow (deviceWord m dev) = m) ∧
  (∀ m : Mnemonic, m.kind = .simple → selectRow m.mask = m)

/-- Encoding a decoded micro word gives the word back but for its spare bits, which decode ignores
(R95, R96(c)). -/
def Obligations.MicroWordReencodesButSpareBits : Prop :=
  ∀ w : Word, encode (decodeMicro w) =
    if w.toNat < 16384 then w &&& 0xF3FF#16
    else if w.toNat < 32768 then w &&& 0xCFFF#16
    else w

/-- Macro decode selects the FIRST row in scan order whose mask bits are all set (R130), with the operand
of R132. -/
def Obligations.MacroScanSelectsFirstMatch : Prop :=
  ∀ w : Word,
    (∃ before after, scanOrder = before ++ selectRow w :: after ∧
      w &&& (selectRow w).mask = (selectRow w).mask ∧
      ∀ m ∈ before, w &&& m.mask ≠ m.mask) ∧
    decodeMacro w =
      instrOf (selectRow w) (w.toNat.testBit 11) (BitVec.ofNat 11 w.toNat) (BitVec.ofNat 4 w.toNat)

/-- Words written out from R91 to R93 and R131 decode to the instruction they stand for. -/
def Obligations.WrittenOutWordsDecode : Prop :=
  decodeMicro 0x1190#16 =
    .mcOp0 .a .dr (.listed .right) (.listed .sumPlusOne) (.listed .none) (.listed .none) ∧
  decodeMicro 0x0003#16 =
    .mcOp0 .none .none (.listed .none) (.listed .sum) (.listed .none) .unlisted ∧
  decodeMicro 0x4008#16 = .mcHalt ⟨false, false, false, false⟩ ⟨.keep, .none, .none⟩ ∧
  decodeMicro 0x4140#16 = .mcIoConn false false false ⟨.fromBuffer, .none, .none⟩ ∧
  decodeMicro 0x4075#16 = .mcFlagsWb ⟨.fromBuffer, .both, .a⟩ ∧
  decodeMicro 0xE705#16 = .mcCtrl true .cr 7#4 5#8 ∧
  decodeMacro 0x0802#16 = .isz true 2#11 ∧ decodeMacro 0x4FFF#16 = .add true 0x7FF#11 ∧
  decodeMacro 0xE305#16 = .output 5#4 ∧ decodeMacro 0xF300#16 = .clc ∧
  decodeMacro 0x7123#16 = .mov false 0x123#11 ∧ decodeMacro 0xD456#16 = .adc false 0x456#11 ∧
  decodeMacro 0xFF00#16 = .ror ∧ decodeMacro 0xE400#16 = .clf 0#4 ∧ decodeMacro 0xF2AB#16 = .cla

/-- Encoding the rendering of a decoded word gives the word back where it is canonical, and the canonical
word of the row reached with the same operand where it is not (R136). -/
def Obligations.EncodeOfRenderingIsCanonicalWord : Prop :=
  (∀ (i : Instr) (text : Text), render i = some text → encodeText text = .ok (encode i)) ∧
  (∀ w : Word, render (decodeMacro w) = some (disassemble w) ∧
    encodeText (disassemble w) = .ok (encode (decodeMacro w))) ∧
  (∀ i : Instr, i.level = .visible → encodeText (disassemble (encode i)) = .ok (encode i))

/-! ## The step -/

/-- A step from a state with no fault mark fetches the word at MPC, records it in MCR, runs exec of the
micro-instruction it decodes to, and advances MPC unless the outcome is Jumped or a fault (R260). -/
def Obligations.StepRunsDecodedInstruction : Prop :=
  ∀ s t : State, s.faultMark = none →
    exec (decodeMicro (s.microWord s.mpc)) { s with mcr := s.microWord s.mpc } = .next t →
    step s = .next
      (if t.outcome = some .jumped ∨ t.outcome = some .fault then t else { t with mpc := t.mpc + 1#8 })

/-- The step of the table's rows is the micro_step of R260 over the three shapes of R95, with the OP1
paths in the order halt, I/O, status (R223). -/
def Obligations.StepIsSequencerPseudocode : Prop :=
  ∀ s : State, step s = microStep s

/-- The engine decodes only micro-instructions: no step runs a macro instruction (R2). -/
def Obligations.EngineDecodesOnlyMicro : Prop :=
  ∀ w : Word, (decodeMicro w).level = .micro ∧ (decodeMacro w).level = .visible

/-- MPC after a step, by case (R262): CTRL with a true condition, its target; a well-formed word
otherwise, MPC + 1 modulo 256; a faulting word, unchanged. -/
def Obligations.MpcAfterStepByCase : Prop :=
  ∀ s : State, s.faultMark = none → ∃ t, step s = .next t ∧ t.mcr = s.microWord s.mpc ∧
    (∀ cmp reg bit target, decodeMicro (s.microWord s.mpc) = .mcCtrl cmp reg bit target →
      if (controlValue reg s).testBit bit.toNat = cmp then
        t.mpc = target ∧ t.outcome = some .jumped
      else t.mpc.toNat = (s.mpc.toNat + 1) % 256 ∧ t.outcome = some .success) ∧
    ((decodeMicro (s.microWord s.mpc)).wellFormed = true →
      (∀ cmp reg bit target, decodeMicro (s.microWord s.mpc) ≠ .mcCtrl cmp reg bit target) →
      t.mpc.toNat = (s.mpc.toNat + 1) % 256 ∧
        (t.outcome = some .success ∨ t.outcome = some .halted)) ∧
    ((decodeMicro (s.microWord s.mpc)).wellFormed = false →
      t.mpc = s.mpc ∧ t.outcome = some .fault)

/-- A word that consults an unlisted field faults: the mark records word and MPC, MCR is written, MPC is
unchanged and so is everything else (R343, R341, D34); a marked state has no further step. -/
def Obligations.FaultingStepLeavesOnlyTheMark : Prop :=
  (∀ s : State, s.faultMark = none → (decodeMicro (s.microWord s.mpc)).wellFormed = false →
    step s = .next { s with
      mcr := s.microWord s.mpc
      faultMark := some (.unlistedField (s.microWord s.mpc) s.mpc)
      outcome := some .fault }) ∧
  (∀ (s : State) (f : Fault), s.faultMark = some f → step s = .fault f)

/-- After a step the mark is set exactly when the step returned Fault (R341). -/
def Obligations.MarkIsSetExactlyByFault : Prop :=
  ∀ s t : State, step s = .next t → MarkAgrees t

/-! ## OP0 -/

/-- OP0 without a shift stores in BR the exact sum, sum plus one or AND of its operands, each complemented
over 16 bits where selected, DR being read after the memory access (R195 to R198). -/
def Obligations.Op0StoresAluResult : Prop :=
  ∀ (left : LeftSel) (right : RightSel) (inv : Inv) (op : AluOp) (mem : Mem) (s : State),
    ∃ t, exec (.mcOp0 left right (.listed inv) (.listed op) (.listed .none) (.listed mem)) s = .next t ∧
      t.br.toNat = aluValue op (complemented (inv == .left) (leftValue left s))
        (complemented (inv == .right) (rightValue right { s with dr := t.dr })) ∧
      t.outcome = some .success

/-- The memory access of OP0 (R194): MEM read loads DR from GEN at AR, MEM write stores DR there and keeps
DR, and the access comes before the operands are selected; BR gets the ALU result in every case. -/
def Obligations.Op0AccessesGeneralMemoryAtAr : Prop :=
  ∀ (left : LeftSel) (right : RightSel) (inv : Inv) (op : AluOp) (mem : Mem) (s : State),
    genWf s.gen = true →
    ∃ t, exec (.mcOp0 left right (.listed inv) (.listed op) (.listed .none) (.listed mem)) s = .next t ∧
      t.dr = (if mem = .read then s.genWord s.ar else s.dr) ∧
      (∀ i, t.genWord i = if mem = .write ∧ i = s.ar then s.dr else s.genWord i) ∧
      t.br.toNat = aluValue op (complemented (inv == .left) (leftValue left s))
        (complemented (inv == .right) (rightValue right { s with dr := t.dr }))

/-- What OP0 leaves unchanged, whatever its fields (R199): every register but BR and DR, flags, devices,
log and microcode; DR unless it reads memory; general memory unless it writes, and then every cell but
the one at AR. -/
def Obligations.Op0Frame : Prop :=
  ∀ (left : LeftSel) (right : RightSel) (inv : Code Inv) (op : Code AluOp) (shift : Code Shift)
    (mem : Code Mem) (s t : State),
    exec (.mcOp0 left right inv op shift mem) s = .next t →
    t = { s with br := t.br, dr := t.dr, gen := t.gen, faultMark := t.faultMark, outcome := t.outcome } ∧
    (mem ≠ .listed .read ∨ shift ≠ .listed .none → t.dr = s.dr) ∧
    (mem ≠ .listed .write ∨ shift ≠ .listed .none → t.gen = s.gen) ∧
    (genWf s.gen = true → ∀ i, i ≠ s.ar → t.genWord i = s.genWord i)

/-- Shift left (R191, R192): BR is A doubled plus C, 17 bits, whatever the other fields hold; nothing else
changes, A and C among the rest; a later carry selector 01 moves the A[15] in BR[16] into C. -/
def Obligations.Op0ShiftLeft : Prop :=
  ∀ (left : LeftSel) (right : RightSel) (inv : Code Inv) (op : Code AluOp) (mem : Code Mem)
    (s : State),
    ∃ t, exec (.mcOp0 left right inv op (.listed .left) mem) s = .next t ∧
      t.br.toNat = 2 * s.a.toNat + (s.flag .carry).toNat ∧
      t = { s with br := t.br, outcome := some .success } ∧
      ∀ zn wb, ∃ u, exec (.mcFlagsWb ⟨.fromBuffer, zn, wb⟩) t = .next u ∧
        u.flag .carry = s.a.toNat.testBit 15

/-- Shift right (R191, R193): BR[16] is A[0], BR[15] is C, BR[14:0] is A[15:1]; nothing else changes. -/
def Obligations.Op0ShiftRight : Prop :=
  ∀ (left : LeftSel) (right : RightSel) (inv : Code Inv) (op : Code AluOp) (mem : Code Mem)
    (s : State),
    ∃ t, exec (.mcOp0 left right inv op (.listed .right) mem) s = .next t ∧
      t.br.toNat = s.a.toNat % 2 * 65536 + (s.flag .carry).toNat * 32768 + s.a.toNat / 2 ∧
      t = { s with br := t.br, outcome := some .success }

/-- A consulted field that holds 11 raises the fault before any state change (R203): SHIFT always, MEM,
INV and OP only where no shift is active. -/
def Obligations.Op0UnlistedFieldFaults : Prop :=
  ∀ (left : LeftSel) (right : RightSel) (inv : Code Inv) (op : Code AluOp) (shift : Code Shift)
    (mem : Code Mem) (s : State),
    shift = .unlisted ∨ (shift = .listed .none ∧ (mem = .unlisted ∨ inv = .unlisted ∨ op = .unlisted)) →
    exec (.mcOp0 left right inv op shift mem) s =
      .next { s with faultMark := some (.unlistedField s.mcr s.mpc), outcome := some .fault }

/-- Subtraction as the microprogram builds it (R200): A plus the complement of DR plus one leaves the
difference in BR[15:0], and BR[16] is 1 exactly when A is at least DR, unsigned. -/
def Obligations.Op0SubtractsWithoutBorrow : Prop :=
  ∀ s : State, ∃ t,
    exec (.mcOp0 .a .dr (.listed .right) (.listed .sumPlusOne) (.listed .none) (.listed .none)) s
      = .next t ∧
    t.brLow = s.a - s.dr ∧ (t.br.toNat.testBit 16 = true ↔ s.dr.toNat ≤ s.a.toNat)

/-! ## OP1 -/

/-- A halt word changes no register, flag, cell or device whatever its other fields say; the sequencer
still records MCR and advances MPC (R221). -/
def Obligations.HaltChangesNothing : Prop :=
  ∀ (io : IoFlags) (st : StatusFields) (s : State),
    exec (.mcHalt io st) s = .next { s with outcome := some .halted } ∧
    (s.faultMark = none → decodeMicro (s.microWord s.mpc) = .mcHalt io st →
      step s = .next { s with
        mcr := s.microWord s.mpc, mpc := s.mpc + 1#8, outcome := some .halted })

/-- The carry selector (R224): keep; C from BR[16], which is then cleared; 0; 1. Only selector 01 changes
BR. -/
def Obligations.CarrySelector : Prop :=
  ∀ (st : StatusFields) (s : State), ∃ t, exec (.mcFlagsWb st) s = .next t ∧
    t.flag .carry = (match st.carry with
      | .keep => s.flag .carry
      | .fromBuffer => s.br.toNat.testBit 16
      | .clear => false
      | .set => true) ∧
    t.br.toNat = if st.carry = .fromBuffer then low s else s.br.toNat

/-- The zero/negative selector (R225): Z from BR[15:0] = 0, N from BR[15], each kept if not selected. -/
def Obligations.ZeroNegativeSelector : Prop :=
  ∀ (st : StatusFields) (s : State), ∃ t, exec (.mcFlagsWb st) s = .next t ∧
    t.flag .zero =
      (if st.zn = .zero ∨ st.zn = .both then decide (low s = 0) else s.flag .zero) ∧
    t.flag .negative =
      (if st.zn = .negative ∨ st.zn = .both then (low s).testBit 15 else s.flag .negative)

/-- Write-back (R226): the low 16 bits of BR to the selected registers under their masks; 6 writes
nothing, 7 writes AR, DR, CR and A and not CC; BR is changed by no write-back. -/
def Obligations.WriteBackDestinations : Prop :=
  ∀ (st : StatusFields) (s : State), ∃ t, exec (.mcFlagsWb st) s = .next t ∧
    t.ar.toNat = (if st.wb = .ar ∨ st.wb = .all then low s % 2048 else s.ar.toNat) ∧
    t.dr.toNat = (if st.wb = .dr ∨ st.wb = .all then low s else s.dr.toNat) ∧
    t.cr.toNat = (if st.wb = .cr ∨ st.wb = .all then low s else s.cr.toNat) ∧
    t.cc.toNat = (if st.wb = .cc then low s % 2048 else s.cc.toNat) ∧
    t.a.toNat = (if st.wb = .a ∨ st.wb = .all then low s else s.a.toNat) ∧
    (∀ wb, ∃ u, exec (.mcFlagsWb { st with wb := wb }) s = .next u ∧ u.br = t.br)

/-- What the status path leaves unchanged (R220, R224 to R226): every flag but C, Z and N, MPC, MCR, both
banks, devices, log and mark; BR but under carry selector 01; each of A, CC, AR, CR and DR but under a
write-back code that names it. -/
def Obligations.StatusPathFrame : Prop :=
  ∀ (st : StatusFields) (s t : State), exec (.mcFlagsWb st) s = .next t →
    t = { s with
      a := if st.wb = .a ∨ st.wb = .all then t.a else s.a
      cc := if st.wb = .cc then t.cc else s.cc
      ar := if st.wb = .ar ∨ st.wb = .all then t.ar else s.ar
      cr := if st.wb = .cr ∨ st.wb = .all then t.cr else s.cr
      dr := if st.wb = .dr ∨ st.wb = .all then t.dr else s.dr
      br := if st.carry = .fromBuffer then t.br else s.br
      sr := t.sr
      outcome := some .success } ∧
    (∀ f, f ≠ .carry → f ≠ .zero → f ≠ .negative → t.flag f = s.flag f) ∧
    (st.carry = .keep → st.zn = .none → t.sr = s.sr)

/-- Reset-all-device-ready-flags (R228): every ready flag becomes false; data, SR and all else are
unchanged. -/
def Obligations.ResetReadyClearsEveryDevice : Prop :=
  ∀ (st : StatusFields) (s : State), ∃ t, exec (.mcIoRdy false false st) s = .next t ∧
    (∀ d, t.device d = { s.device d with ready := false }) ∧
    t = { s with devices := t.devices, outcome := some .success }

/-- Disable- and enable-interrupts (R229): SR bit 4 becomes 0 or 1, and 1 with both set; no other state
changes. -/
def Obligations.InterruptFlagsWriteBit4 : Prop :=
  ∀ (st : StatusFields) (s : State),
    (∃ t, exec (.mcIoDi false st) s = .next t ∧
      (∀ f, t.flag f = if f = .interruptsAllowed then false else s.flag f) ∧
      t = { s with sr := t.sr, outcome := some .success }) ∧
    (∃ t, exec (.mcIoDi true st) s = .next t ∧
      (∀ f, t.flag f = if f = .interruptsAllowed then true else s.flag f) ∧
      t = { s with sr := t.sr, outcome := some .success }) ∧
    (∃ t, exec (.mcIoEi st) s = .next t ∧
      (∀ f, t.flag f = if f = .interruptsAllowed then true else s.flag f) ∧
      t = { s with sr := t.sr, outcome := some .success })

/-- Several I/O flags in one word (R227, D8): connect, reset-all-ready, disable, enable, in this order;
the carry, Z/N and write-back fields are skipped: what the flags do, connect among them, is the same
whatever the status fields `st` and `st'` hold. -/
def Obligations.SeveralIoFlagsActInOrder : Prop :=
  (∀ (rdy di ei : Bool) (st st' : StatusFields) (s : State),
    ∃ u t, exec (.mcIoConn false false false st') s = .next u ∧
      exec (.mcIoConn rdy di ei st) s = .next t ∧
      (∀ d, t.device d = if rdy then { u.device d with ready := false } else u.device d) ∧
      (∀ f, t.flag f = if f = .interruptsAllowed then (u.flag f && !di) || ei else u.flag f) ∧
      t = { u with devices := t.devices, sr := t.sr }) ∧
  (∀ (di ei : Bool) (st : StatusFields) (s : State),
    ∃ t, exec (.mcIoRdy di ei st) s = .next t ∧
      (∀ d, t.device d = { s.device d with ready := false }) ∧
      (∀ f, t.flag f = if f = .interruptsAllowed then (s.flag f && !di) || ei else s.flag f) ∧
      t = { s with devices := t.devices, sr := t.sr, outcome := some .success })

/-- A connect request with DR different from CR is logged and ignored: only the log changes (R230). -/
def Obligations.IgnoredConnectOnlyLogs : Prop :=
  ∀ (st : StatusFields) (s : State), s.dr ≠ s.cr →
    ∃ t, exec (.mcIoConn false false false st) s = .next t ∧
      t = { s with log := t.log, outcome := some .success } ∧
      t.log = (s.log ++ [LogEntry.ignoredConnect s.dr s.cr]).drop (s.log.length + 1 - Config.logCapacity)

/-- Connect, write case (R281, R285): the low byte of A goes to the device's data; its ready flag, A and
every SR bit but 12 are unchanged, and bit 12 is cleared. -/
def Obligations.ConnectWritesDeviceData : Prop :=
  ∀ (st : StatusFields) (s : State), s.dr = s.cr → ioSelector s = 3 →
    ∃ t, exec (.mcIoConn false false false st) s = .next t ∧
      (∀ d, t.device d =
        if d = ioTarget s then { s.device d with data := BitVec.ofNat 8 s.a.toNat } else s.device d) ∧
      (∀ f, t.flag f = if f = .ioActive then false else s.flag f) ∧
      t = { s with devices := t.devices, sr := t.sr, outcome := some .success }

/-- Connect, read case (R282, R285): the device's data goes to the low byte of A, the high byte
unaffected; device and every SR bit but 12 are unchanged, and bit 12 is cleared. -/
def Obligations.ConnectReadsDeviceData : Prop :=
  ∀ (st : StatusFields) (s : State), s.dr = s.cr → ioSelector s = 2 →
    ∃ t, exec (.mcIoConn false false false st) s = .next t ∧
      t.a.toNat = s.a.toNat / 256 * 256 + (s.device (ioTarget s)).data.toNat ∧
      (∀ f, t.flag f = if f = .ioActive then false else s.flag f) ∧
      t = { s with a := t.a, sr := t.sr, outcome := some .success }

/-- Connect, test case (R284, R285): SR bit 6 becomes the device's ready flag, and CC is advanced modulo
2048 if it is set; the ready flag is unchanged, and bit 12 is cleared. -/
def Obligations.ConnectTestsDeviceReady : Prop :=
  ∀ (st : StatusFields) (s : State), s.dr = s.cr → ioSelector s = 1 →
    ∃ t, exec (.mcIoConn false false false st) s = .next t ∧
      t.cc.toNat = (if (s.device (ioTarget s)).ready then (s.cc.toNat + 1) % 2048 else s.cc.toNat) ∧
      (∀ f, t.flag f =
        if f = .ioActive then false
        else if f = .deviceReady then (s.device (ioTarget s)).ready else s.flag f) ∧
      t = { s with cc := t.cc, sr := t.sr, outcome := some .success }

/-- Connect, clear case (R283, R285): the device's ready flag is cleared; its data and every SR bit but 12
are unchanged, and bit 12 is cleared. -/
def Obligations.ConnectClearsDeviceReady : Prop :=
  ∀ (st : StatusFields) (s : State), s.dr = s.cr → ioSelector s = 0 →
    ∃ t, exec (.mcIoConn false false false st) s = .next t ∧
      (∀ d, t.device d =
        if d = ioTarget s then { s.device d with ready := false } else s.device d) ∧
      (∀ f, t.flag f = if f = .ioActive then false else s.flag f) ∧
      t = { s with devices := t.devices, sr := t.sr, outcome := some .success }

/-! ## CTRL -/

/-- The conditional branch (R250, R251, R255): if the tested bit of SR, DR, CR or A equals CMP, MPC becomes
the target and Jumped is returned, else Success; nothing else changes. -/
def Obligations.ControlJumpsOnTestedBit : Prop :=
  ∀ (cmp : Bool) (reg : CtrlReg) (bit : BitVec 4) (target : MicroAddr) (s : State),
    exec (.mcCtrl cmp reg bit target) s = .next
      (if (controlValue reg s).testBit bit.toNat = cmp then
        { s with mpc := target, outcome := some .jumped }
      else { s with outcome := some .success })

/-- SR bits 13 to 15 do not exist and read as 0 (R252): tested against 0 they always jump, against 1
never. -/
def Obligations.MissingStatusBitsReadZero : Prop :=
  ∀ (bit : BitVec 4) (target : MicroAddr) (s : State), 13 ≤ bit.toNat →
    exec (.mcCtrl false .sr bit target) s = .next { s with mpc := target, outcome := some .jumped } ∧
    exec (.mcCtrl true .sr bit target) s = .next { s with outcome := some .success }

/-! ## Macro instructions -/

/-- A macro instruction's effect is one macro step of the microprogram on its word at GEN[CC] (R263, R2,
D35, the model's reading in log 6): where that run first returns Halted, exec answers the state it
leaves. -/
def Obligations.MacroInstructionIsAMacroStep : Prop :=
  ∀ (i : Instr) (n : Nat) (s t : State), i.level = .visible → n ≤ Config.macroFuel →
    HaltsIn n (s.setGenWord s.cc (encode i)) t → exec i s = .next t

/-- Where exec of a macro instruction answers a state, its run returned Halted there, or raised a fault
(R263, R341, logs 6 and 7). -/
def Obligations.MacroInstructionAnswersEndOfRun : Prop :=
  ∀ (i : Instr) (s t : State), i.level = .visible → exec i s = .next t →
    (∃ n, n ≤ Config.macroFuel ∧ HaltsIn n (s.setGenWord s.cc (encode i)) t) ∨
    (t.outcome = some .fault ∧ t.faultMark.isSome = true)

/-- The four I/O macro instructions where the microprogram stands at its connect word with DR = CR = the
macro word and a halt word follows (R168 to R171): CLF clears the ready flag, TSF copies it to SR bit 6 and
skips if set, IN loads the low byte of A, OUT stores it; SR bit 12 is cleared and nothing else changes but
MPC, MCR and the word's own cell (log 6). -/
def Obligations.IoMacroInstructionsThroughConnect : Prop :=
  ∀ (dev : DevIndex) (s : State),
    (AtConnect (encode (.clf dev)) s → ∃ t, exec (.clf dev) s = .next t ∧
      (∀ d, t.device d = if d = dev then { s.device d with ready := false } else s.device d) ∧
      (∀ f, t.flag f = if f = .ioActive then false else s.flag f) ∧
      t = { placeMacro (encode (.clf dev)) s with
        devices := t.devices, sr := t.sr, mpc := t.mpc, mcr := t.mcr, outcome := some .halted }) ∧
    (AtConnect (encode (.tsf dev)) s → ∃ t, exec (.tsf dev) s = .next t ∧
      (∀ f, t.flag f = if f = .ioActive then false
        else if f = .deviceReady then (s.device dev).ready else s.flag f) ∧
      t.cc.toNat = (if (s.device dev).ready then (s.cc.toNat + 1) % 2048 else s.cc.toNat) ∧
      t = { placeMacro (encode (.tsf dev)) s with
        cc := t.cc, sr := t.sr, mpc := t.mpc, mcr := t.mcr, outcome := some .halted }) ∧
    (AtConnect (encode (.input dev)) s → ∃ t, exec (.input dev) s = .next t ∧
      t.a.toNat = s.a.toNat / 256 * 256 + (s.device dev).data.toNat ∧
      (∀ f, t.flag f = if f = .ioActive then false else s.flag f) ∧
      t = { placeMacro (encode (.input dev)) s with
        a := t.a, sr := t.sr, mpc := t.mpc, mcr := t.mcr, outcome := some .halted }) ∧
    (AtConnect (encode (.output dev)) s → ∃ t, exec (.output dev) s = .next t ∧
      (∀ d, t.device d =
        if d = dev then { s.device d with data := BitVec.ofNat 8 s.a.toNat } else s.device d) ∧
      (∀ f, t.flag f = if f = .ioActive then false else s.flag f) ∧
      t = { placeMacro (encode (.output dev)) s with
        devices := t.devices, sr := t.sr, mpc := t.mpc, mcr := t.mcr, outcome := some .halted })

/-- The arithmetic macro instructions where AR holds the effective address and MICRO the words that carry
their effect line out (R144, R147 to R149, R164, R165): the micro
rules give that effect (log 6). -/
def Obligations.MacroArithmeticThroughMicrowords : Prop :=
  ∀ (x : Bool) (addr : GenAddr) (s : State), genWf s.gen = true →
    (Holds [aluWord .a .dr .none .and .read, .mcFlagsWb ⟨.keep, .both, .a⟩, haltWord] s →
      Arithmetic (.and x addr) (s.a.toNat &&& cellAtAr (.and x addr) s) (s.flag .carry) s) ∧
    (∀ sum, sum = s.a.toNat + cellAtAr (.add x addr) s →
      Holds [aluWord .a .dr .none .sum .read, .mcFlagsWb ⟨.fromBuffer, .both, .a⟩, haltWord] s →
      Arithmetic (.add x addr) sum (sum.testBit 16) s) ∧
    (∀ sum, sum = s.a.toNat + cellAtAr (.adc x addr) s + (s.flag .carry).toNat →
      Holds [aluWord .a .dr .none .sum .read, .mcCtrl false .sr 0#4 (s.mpc + 3#8),
        aluWord .a .dr .none .sumPlusOne .none, .mcFlagsWb ⟨.fromBuffer, .both, .a⟩, haltWord] s →
      Arithmetic (.adc x addr) sum (sum.testBit 16) s) ∧
    (∀ sum, sum = s.a.toNat + (65535 - cellAtAr (.sub x addr) s) + 1 →
      Holds [aluWord .a .dr .right .sumPlusOne .read, .mcFlagsWb ⟨.fromBuffer, .both, .a⟩,
        haltWord] s →
      Arithmetic (.sub x addr) sum (sum.testBit 16) s) ∧
    (∀ sum, sum = s.a.toNat + 1 →
      Holds [aluWord .a .none .none .sumPlusOne .none, .mcFlagsWb ⟨.fromBuffer, .both, .a⟩,
        haltWord] s →
      Arithmetic .inc sum (sum.testBit 16) s) ∧
    (∀ sum, sum = s.a.toNat + 65535 →
      Holds [aluWord .a .none .right .sum .none, .mcFlagsWb ⟨.fromBuffer, .both, .a⟩, haltWord] s →
      Arithmetic .dec sum (sum.testBit 16) s)

/-- The macro instructions on A, C and SR bit 4 alone, HLT and NOP among them, where MICRO holds at MPC
the words that carry their effect line out (R156 to R163, R166, R167, log 6). -/
def Obligations.MacroAccumulatorThroughMicrowords : Prop :=
  ∀ s : State, genWf s.gen = true →
    (Holds [haltWord] s → Leaves .hlt s.a.toNat s.flag s.cc.toNat s ∧
      Leaves .nop s.a.toNat s.flag s.cc.toNat s) ∧
    (Holds [aluWord .none .none .none .sum .none, .mcFlagsWb ⟨.keep, .none, .a⟩, haltWord] s →
      Leaves .cla 0 s.flag s.cc.toNat s) ∧
    (Holds [.mcFlagsWb ⟨.clear, .none, .none⟩, haltWord] s →
      Leaves .clc s.a.toNat (withFlag .carry false s) s.cc.toNat s) ∧
    (Holds [aluWord .a .none .left .sum .none, .mcFlagsWb ⟨.keep, .none, .a⟩, haltWord] s →
      Leaves .cma (65535 - s.a.toNat) s.flag s.cc.toNat s) ∧
    (Holds [.mcCtrl true .sr 0#4 (s.mpc + 3#8), .mcFlagsWb ⟨.set, .none, .none⟩, haltWord,
        .mcFlagsWb ⟨.clear, .none, .none⟩, haltWord] s →
      Leaves .cmc s.a.toNat (withFlag .carry (!s.flag .carry) s) s.cc.toNat s) ∧
    (Holds [shiftWord .left, .mcFlagsWb ⟨.fromBuffer, .none, .a⟩, haltWord] s →
      Leaves .rol (s.a.toNat % 32768 * 2 + (s.flag .carry).toNat)
        (withFlag .carry (s.a.toNat.testBit 15) s) s.cc.toNat s) ∧
    (Holds [shiftWord .right, .mcFlagsWb ⟨.fromBuffer, .none, .a⟩, haltWord] s →
      Leaves .ror ((s.flag .carry).toNat * 32768 + s.a.toNat / 2)
        (withFlag .carry (s.a.toNat.testBit 0) s) s.cc.toNat s) ∧
    (∀ st, Holds [.mcIoEi st, haltWord] s →
      Leaves .ei s.a.toNat (withFlag .interruptsAllowed true s) s.cc.toNat s) ∧
    (∀ st, Holds [.mcIoDi false st, haltWord] s →
      Leaves .di s.a.toNat (withFlag .interruptsAllowed false s) s.cc.toNat s)

/-- The branches where the low bits of CR hold the effective address and MICRO the words that carry their
effect line out (R150 to R154): CC becomes it where the flag says so, and is unchanged else (log 6). -/
def Obligations.MacroBranchesThroughMicrowords : Prop :=
  ∀ (x : Bool) (addr : GenAddr) (s : State), genWf s.gen = true →
    (Holds [aluWord .cr .none .none .sum .none, .mcFlagsWb ⟨.keep, .none, .cc⟩, haltWord] s →
      Leaves (.br x addr) s.a.toNat s.flag (s.cr.toNat % 2048) s) ∧
    (∀ (skipIf : Bool) (bit : BitVec 4),
      Holds [.mcCtrl skipIf .sr bit (s.mpc + 3#8), aluWord .cr .none .none .sum .none,
        .mcFlagsWb ⟨.keep, .none, .cc⟩, haltWord] s →
      (skipIf = false → bit = 0#4 → Leaves (.bcs x addr) s.a.toNat s.flag
        (if s.flag .carry then s.cr.toNat % 2048 else s.cc.toNat) s) ∧
      (skipIf = true → bit = 2#4 → Leaves (.bpl x addr) s.a.toNat s.flag
        (if s.flag .negative then s.cc.toNat else s.cr.toNat % 2048) s) ∧
      (skipIf = false → bit = 2#4 → Leaves (.bmi x addr) s.a.toNat s.flag
        (if s.flag .negative then s.cr.toNat % 2048 else s.cc.toNat) s) ∧
      (skipIf = false → bit = 1#4 → Leaves (.beq x addr) s.a.toNat s.flag
        (if s.flag .zero then s.cr.toNat % 2048 else s.cc.toNat) s))

/-- The storing macro instructions where AR holds the effective address, for JSR also in the low bits of CR,
and MICRO the words that carry their effect line out (R143, R145, R146, log 6). -/
def Obligations.MacroStoresThroughMicrowords : Prop :=
  ∀ (x : Bool) (addr : GenAddr) (s : State), genWf s.gen = true →
    (∀ v, v = (cellAtAr (.isz x addr) s + 1) % 65536 →
      Holds [aluWord .none .none .none .sum .read, aluWord .none .dr .none .sumPlusOne .none,
        .mcFlagsWb ⟨.keep, .none, .dr⟩, aluWord .none .none .none .sum .write,
        .mcCtrl true .dr 15#4 (s.mpc + 7#8), aluWord .none .cc .none .sumPlusOne .none,
        .mcFlagsWb ⟨.keep, .none, .cc⟩, haltWord] s →
      Stores (.isz x addr) v (if v.testBit 15 then s.cc.toNat else (s.cc.toNat + 1) % 2048) s) ∧
    (Holds [aluWord .none .cc .none .sum .none, .mcFlagsWb ⟨.keep, .none, .dr⟩,
        aluWord .cr .none .none .sumPlusOne .write, .mcFlagsWb ⟨.keep, .none, .cc⟩, haltWord] s →
      Stores (.jsr x addr) s.cc.toNat ((s.cr.toNat + 1) % 2048) s) ∧
    (Holds [aluWord .a .none .none .sum .none, .mcFlagsWb ⟨.keep, .none, .dr⟩,
        aluWord .none .none .none .sum .write, haltWord] s →
      Stores (.mov x addr) s.a.toNat s.cc.toNat s)

/-- A micro shift followed by carry selector 01 with write-back to A is the rotate through carry of R162
and R163. -/
def Obligations.ShiftThenCarryRotates : Prop :=
  ∀ (zn : ZnSel) (s : State),
    (∃ u t, exec (.mcOp0 .none .none (.listed .none) (.listed .sum) (.listed .left) (.listed .none)) s
        = .next u ∧
      exec (.mcFlagsWb ⟨.fromBuffer, zn, .a⟩) u = .next t ∧
      t.a.toNat = s.a.toNat % 32768 * 2 + (s.flag .carry).toNat ∧
      t.flag .carry = s.a.toNat.testBit 15) ∧
    (∃ u t, exec (.mcOp0 .none .none (.listed .none) (.listed .sum) (.listed .right) (.listed .none)) s
        = .next u ∧
      exec (.mcFlagsWb ⟨.fromBuffer, zn, .a⟩) u = .next t ∧
      t.a.toNat = (s.flag .carry).toNat * 32768 + s.a.toNat / 2 ∧
      t.flag .carry = s.a.toNat.testBit 0)

/-! ## Reset -/

/-- The state after construction (R370): registers, flags and devices 0, log and mark empty, the banks as
reset_memory leaves them, and the first fetch is MICRO[0x00]. -/
def Obligations.ConstructionState : Prop :=
  (∀ r : Reg, getReg r State.reset = 0) ∧ (∀ f : Flag, State.reset.flag f = false) ∧
  (∀ d, State.reset.device d = ⟨0#8, false⟩) ∧ State.reset.log = [] ∧ State.reset.faultMark = none ∧
  resetMemory State.reset = State.reset ∧ fetchWord State.reset = State.reset.microWord 0#8

/-- reset_memory (R371 to R373): MICRO is 0 but for the boot image, whose later pairs win; GEN is 0;
nothing else changes; a second call changes nothing. -/
def Obligations.ResetMemoryReloadsBanks : Prop :=
  (∀ (before after : List (MicroAddr × Word)) (a : MicroAddr) (v : Word),
    (∀ p ∈ after, p.1 ≠ a) → microLookup (microReload (before ++ (a, v) :: after)) a = v) ∧
  (∀ (image : List (MicroAddr × Word)) (a : MicroAddr),
    (∀ p ∈ image, p.1 ≠ a) → microLookup (microReload image) a = 0#16) ∧
  (∀ s : State, (resetMemory s).micro = microReload Config.bootImage ∧
    (∀ i, (resetMemory s).genWord i = 0#16) ∧
    resetMemory s = { s with gen := (resetMemory s).gen, micro := (resetMemory s).micro } ∧
    resetMemory (resetMemory s) = resetMemory s)

/-! ## Invariants and whole-machine rules -/

/-- The construction state meets the invariants and the launch premises (R380). -/
def Obligations.ConstructionMeetsInvariants : Prop :=
  Invariant State.reset ∧ MarkAgrees State.reset ∧ LaunchPremises State.reset

/-- Every step keeps general memory in canonical form inside its bank, and the log within its capacity
(R60, R350). -/
def Obligations.StepKeepsInvariant : Prop :=
  ∀ s t : State, Invariant s → step s = .next t → Invariant t

/-- Every instruction keeps the invariant, macro instructions with their whole run among them. -/
def Obligations.EveryInstructionKeepsInvariant : Prop :=
  ∀ (i : Instr) (s t : State), Invariant s → exec i s = .next t → Invariant t

/-- A microprogram that consults no unlisted field never faults (R203, R343): from a safe state every step
answers a safe state. -/
def Obligations.WellFormedMicroprogramNeverFaults : Prop :=
  ∀ s : State, Safe s → ∃ t, step s = .next t ∧ Safe t

/-- No rule of the core writes MICRO (R66). -/
def Obligations.NoInstructionWritesMicro : Prop :=
  (∀ (i : Instr) (s t : State), exec i s = .next t → t.micro = s.micro) ∧
  (∀ s t : State, step s = .next t → t.micro = s.micro)

/-- SR bits 3, 5, 7, 8, 9, 10 and 11 are written by no instruction, and bit 12 is never set by one (R39,
R41, R43 to R46). -/
def Obligations.HostFlagsAreNeverWritten : Prop :=
  (∀ (i : Instr) (s t : State), exec i s = .next t →
    HostFlagsKept s t ∧ (s.flag .ioActive = false → t.flag .ioActive = false)) ∧
  (∀ s t : State, step s = .next t →
    HostFlagsKept s t ∧ (s.flag .ioActive = false → t.flag .ioActive = false))

/-- No instruction sets a device's ready flag (R287). -/
def Obligations.NoInstructionMakesDeviceReady : Prop :=
  (∀ (i : Instr) (s t : State) (d : DevIndex), exec i s = .next t →
    (t.device d).ready = true → (s.device d).ready = true) ∧
  (∀ (s t : State) (d : DevIndex), step s = .next t →
    (t.device d).ready = true → (s.device d).ready = true)

/-- MCR, the log and the recorded outcome have no effect on execution (R27, R49): from two states that
differ in them alone, steps lead to states that differ in the log alone. -/
def Obligations.DiagnosticsDoNotInfluenceSteps : Prop :=
  ∀ s s' t : State, SameButDiagnostics s s' → step s = .next t →
    ∃ t', step s' = .next t' ∧ t' = { t with log := t'.log }

/-! ## Host ports -/

/-- `set(r, v)` stores `v & mask(r)` in register r, for BR its low 16 bits with bit 16 at 0, and changes no
other register (R32, R21, R22). -/
def Obligations.RegisterSetStoresMasked : Prop :=
  ∀ (r : Reg) (v : Word) (s : State),
    getReg r (setReg r v s) = v.toNat % 2 ^ regWidth r ∧
    (∀ q, q ≠ r → getReg q (setReg r v s) = getReg q s) ∧
    (setReg r v s).gen = s.gen ∧ (setReg r v s).micro = s.micro ∧
    (setReg r v s).devices = s.devices ∧ (setReg r v s).log = s.log ∧
    (setReg r v s).faultMark = s.faultMark

/-- set_wide stores 17 bits in BR (R33); set_flag writes one SR bit and keeps the others, and an index above
12 is refused (R34). -/
def Obligations.WideAndFlagPorts : Prop :=
  (∀ (v : Nat) (s : State), (setWideBr v s).br.toNat = v % 131072 ∧
    setWideBr v s = { s with br := (setWideBr v s).br }) ∧
  (∀ (i : Nat) (b : Bool) (s : State),
    if i < 13 then
      ∃ t, hostSetFlag i b s = some t ∧ t = { s with sr := t.sr } ∧
        ∀ j, j < 13 → hostFlag j t = if j = i then some b else hostFlag j s
    else hostSetFlag i b s = none ∧ hostFlag i s = none)

/-- The host's cell port (R64, R67): a set stores the low 16 bits in one cell of one bank and changes no
other cell and nothing else; an index outside the bank is refused. -/
def Obligations.CellPortWritesOneCell : Prop :=
  ∀ (b : Bank) (i v : Nat) (s : State), genWf s.gen = true →
    if i < (match b with | .gen => 2048 | .micro => 256) then
      ∃ t, hostSetCell b i v s = some t ∧
        hostGetCell b i t = some (BitVec.ofNat 16 v) ∧
        (∀ c j, c ≠ b ∨ j ≠ i → hostGetCell c j t = hostGetCell c j s) ∧
        t = { s with gen := t.gen, micro := t.micro } ∧ genWf t.gen = true
    else hostSetCell b i v s = none ∧ hostGetCell b i s = none

/-- General memories in canonical form that read the same are the same data (the model's representation,
log 2). -/
def Obligations.EqualGeneralMemoriesAreEqualData : Prop :=
  ∀ c d : GenCells, genWf c = true → genWf d = true →
    (∀ i, i < 2048 → genLookup c i = genLookup d i) → c = d

/-- A symbolic load that succeeds writes exactly the cells it places, each inside the bank, and changes no
register and nothing else (R316 to R318). -/
def Obligations.SymbolicLoadWritesItsImage : Prop :=
  ∀ (b : Bank) (text : Text) (s u : State), genWf s.gen = true → loadSymbolic b text s = .ok u →
    ∃ cells, symbolicImage b.size text = .ok cells ∧
      (∀ c ∈ cells, c.1 < b.size ∧ hostGetCell b c.1 u = some c.2) ∧
      (∀ (c : Bank) (i : Nat), (c ≠ b ∨ ∀ w, (i, w) ∉ cells) →
        hostGetCell c i u = hostGetCell c i s) ∧
      u = { s with gen := u.gen, micro := u.micro }

/-- The source's load example (R319): GEN[5] = 0x0002 and GEN[6] = 0xC006. -/
def Obligations.SourceLoadExample : Prop :=
  ∃ u, loadSymbolic .gen
      ("$pos 5\nISZ 2 $then\nBR %then\n".toList) State.reset = .ok u ∧
    u.gen = [(5, 0x0002#16), (6, 0xC006#16)]

/-- The card load (R320 to R322): it succeeds exactly on a text whose lines are cards in range, blank lines
skipped (log 10). CC becomes the address of the LAST card with a plus, modulo 2048, and is unchanged where
no card has one; each card's value is in its cell, a later card for the same address winning; every other
cell and everything else is unchanged. -/
def Obligations.CardLoadSetsCommandCounter : Prop :=
  ∀ (b : Bank) (text : Text) (s : State), genWf s.gen = true →
    (∀ u, loadCard b text s = .ok u →
      ∃ cards, CardsOf (linesOf text) cards ∧ ∀ c ∈ cards, c.inRange b) ∧
    (∀ cards, CardsOf (linesOf text) cards → (∀ c ∈ cards, c.inRange b) →
      ∃ u, loadCard b text s = .ok u ∧
        (∀ before c after, cards = before ++ c :: after → c.plus = true →
          (∀ d ∈ after, d.plus = false) → u.cc.toNat = c.address % 2048) ∧
        ((∀ c ∈ cards, c.plus = false) → u.cc = s.cc) ∧
        (∀ before c after, cards = before ++ c :: after →
          (∀ d ∈ after, d.address ≠ c.address) →
          hostGetCell b c.address u = some (BitVec.ofNat 16 c.value)) ∧
        (∀ (other : Bank) (i : Nat), (other ≠ b ∨ ∀ c ∈ cards, c.address ≠ i) →
          hostGetCell other i u = hostGetCell other i s) ∧
        u = { s with gen := u.gen, micro := u.micro, cc := u.cc })

/-- The continuous run (R266): it stops before a step when the lever is 0, after a step that returns Halted,
and after HOST_BATCH steps. -/
def Obligations.ContinuousRunStops : Prop :=
  (∀ (n : Nat) (s : State), s.flag .runLever = false → runBatch (n + 1) s = (.leverDown, s)) ∧
  (∀ (n : Nat) (s t : State), s.flag .runLever = true → step s = .next t → t.outcome = some .halted →
    runBatch (n + 1) s = (.halted, t)) ∧
  (∀ (n : Nat) (s t : State), s.flag .runLever = true → step s = .next t →
    t.outcome ≠ some .halted → t.faultMark = none → runBatch (n + 1) s = runBatch n t) ∧
  (∀ s : State, runBatch 0 s = (.batchUsed, s) ∧ continuousRun s = runBatch Config.hostBatch s)
end

