-- ==== Sys2Proof/Laws/Bank.lean ====
section
/-! SUPPORT. The laws of the two banks: a store keeps the canonical form, a read after a store, and the
contents after reset. -/

namespace Sys2Proof.Machine

/-! ## General memory -/

/-- A rising list stays rising under a smaller bound. -/
theorem genRising_mono {cells : GenCells} {l l' : Nat} (h : l' ≤ l)
    (hr : genRising (some l) cells = true) : genRising (some l') cells = true := by
  cases cells with
  | nil => rfl
  | cons c rest =>
    simp only [genRising, Bool.and_eq_true, decide_eq_true_eq] at hr ⊢
    exact ⟨by omega, hr.2⟩

/-- A list that rises above some bound is rising. -/
theorem genRising_none {cells : GenCells} {l : Nat} (hr : genRising (some l) cells = true) :
    genRising none cells = true := by
  cases cells with
  | nil => rfl
  | cons c rest =>
    simp only [genRising, Bool.and_eq_true] at hr ⊢
    exact hr.2

/-- An index at or below the bound of a rising list is not listed. -/
theorem genLookup_below {cells : GenCells} {l i : Nat} (hr : genRising (some l) cells = true)
    (h : i ≤ l) : genLookup cells i = genUnlisted := by
  induction cells generalizing l with
  | nil => rfl
  | cons c rest ih =>
    simp only [genRising, Bool.and_eq_true, decide_eq_true_eq] at hr
    rw [genLookup, if_neg (by omega)]
    exact ih hr.2 (by omega)

/-- A store above the bound keeps a list rising above it. -/
theorem genRising_genStore {cells : GenCells} {l i : Nat} {v : Word}
    (hr : genRising (some l) cells = true) (h : l < i) :
    genRising (some l) (genStore cells i v) = true := by
  induction cells generalizing l with
  | nil =>
    unfold genStore
    split
    · rfl
    · simp [genRising, h]
  | cons c rest ih =>
    have hc := hr
    simp only [genRising, Bool.and_eq_true, decide_eq_true_eq] at hc
    unfold genStore
    split
    · split
      · exact hr
      · next hi _ => simp [genRising, h, hi, hc.2]
    · split
      · next _ hi =>
        split
        · exact genRising_mono (by omega) hc.2
        · simp [genRising, ← hi, hc.1, hc.2]
      · next hn hi => simp [genRising, hc.1, ih hc.2 (by omega)]

/-- A store in a rising list leaves a rising list. -/
theorem genRising_none_genStore {cells : GenCells} {i : Nat} {v : Word}
    (hr : genRising none cells = true) : genRising none (genStore cells i v) = true := by
  cases cells with
  | nil => unfold genStore; split <;> rfl
  | cons c rest =>
    simp only [genRising] at hr
    unfold genStore
    split
    · split
      · exact hr
      · next hi _ => simp [genRising, hi, hr]
    · split
      · next _ hi =>
        split
        · exact genRising_none hr
        · simp [genRising, ← hi, hr]
      · next hn hi => simpa [genRising] using genRising_genStore hr (by omega)

/-- Every entry after a store is an entry before it or the stored one, which is not the unlisted value. -/
theorem mem_genStore {cells : GenCells} {i : Nat} {v : Word} {e : Nat × Word}
    (h : e ∈ genStore cells i v) : e ∈ cells ∨ (e = (i, v) ∧ v ≠ genUnlisted) := by
  induction cells with
  | nil =>
    unfold genStore at h
    split at h
    · cases h
    · next hv => exact .inr ⟨by simpa using h, hv⟩
  | cons c rest ih =>
    unfold genStore at h
    split at h
    · split at h
      · exact .inl h
      · next hv =>
        rcases List.mem_cons.1 h with h | h
        · exact .inr ⟨h, hv⟩
        · exact .inl h
    · split at h
      · split at h
        · exact .inl (List.mem_cons_of_mem _ h)
        · next hv =>
          rcases List.mem_cons.1 h with h | h
          · exact .inr ⟨h, hv⟩
          · exact .inl (List.mem_cons_of_mem _ h)
      · rcases List.mem_cons.1 h with h | h
        · exact .inl (h ▸ List.mem_cons_self ..)
        · rcases ih h with h | h
          · exact .inl (List.mem_cons_of_mem _ h)
          · exact .inr h

/-- A store inside the bank keeps the canonical form of general memory. -/
theorem genWf_genStore {cells : GenCells} {i : Nat} {v : Word} (h : genWf cells = true)
    (hi : i < Config.genWords) : genWf (genStore cells i v) = true := by
  simp only [genWf, Bool.and_eq_true, List.all_eq_true, decide_eq_true_eq] at h ⊢
  refine ⟨genRising_none_genStore h.1, fun e he => ?_⟩
  rcases mem_genStore he with he | ⟨rfl, hv⟩
  · exact h.2 e he
  · exact ⟨hi, hv⟩

/-- A read after a store in a list that rises above a bound below the index. -/
theorem genLookup_genStore_rising {cells : GenCells} {l i : Nat} {v : Word} (j : Nat)
    (hr : genRising (some l) cells = true) :
    genLookup (genStore cells i v) j = if j = i then v else genLookup cells j := by
  induction cells generalizing l with
  | nil =>
    unfold genStore
    split
    · next hv => simp [genLookup, hv]
    · simp [genLookup, eq_comm]
  | cons c rest ih =>
    have hc := hr
    simp only [genRising, Bool.and_eq_true, decide_eq_true_eq] at hc
    unfold genStore
    split
    · next hi =>
      split
      · next hv =>
        split
        · next hj =>
          subst hj
          rw [genLookup, if_neg (by omega), genLookup_below hc.2 (by omega), hv]
        · rfl
      · simp [genLookup, eq_comm]
    · split
      · next hn hi =>
        split
        · next hv =>
          split
          · next hj => rw [hj, ← hi, genLookup_below hc.2 (Nat.le_refl _), hv]
          · next hj => rw [genLookup, if_neg (by omega)]
        · simp only [genLookup, hi]
          split
          · next hj => simp [hj]
          · next hj => rw [if_neg (by omega)]
      · next hn hi =>
        rw [genLookup, ih hc.2]
        by_cases hj : c.1 = j
        · rw [if_pos hj, if_neg (by omega)]; simp [genLookup, hj]
        · rw [if_neg hj]; simp [genLookup, hj]

/-- A read after a store: the stored word at its index, every other cell as before. -/
theorem genLookup_genStore {cells : GenCells} {i : Nat} {v : Word} (j : Nat)
    (h : genWf cells = true) :
    genLookup (genStore cells i v) j = if j = i then v else genLookup cells j := by
  simp only [genWf, Bool.and_eq_true] at h
  cases cells with
  | nil => exact genLookup_genStore_rising (l := 0) j rfl
  | cons c rest =>
    have hr := h.1
    simp only [genRising] at hr
    rcases Nat.eq_zero_or_pos c.1 with h0 | hp
    · -- the head is cell 0: an index below it does not exist
      unfold genStore
      rw [if_neg (by omega)]
      split
      · next hi =>
        split
        · next hv =>
          split
          · next hj => rw [hj, ← hi, genLookup_below hr (Nat.le_refl _), hv]
          · next hj => rw [genLookup, if_neg (by omega)]
        · simp only [genLookup, hi]
          split
          · next hj => simp [hj]
          · next hj => rw [if_neg (by omega)]
      · next hi =>
        rw [genLookup, genLookup_genStore_rising j hr]
        by_cases hj : c.1 = j
        · rw [if_pos hj, if_neg (by omega)]; simp [genLookup, hj]
        · rw [if_neg hj]; simp [genLookup, hj]
    · exact genLookup_genStore_rising (l := 0) j (by simp [genRising, hp, hr])

/-- General memory after reset is in canonical form. -/
theorem genWf_nil : genWf [] = true := rfl

/-- Every general cell reads 0 after reset. -/
@[simp] theorem genLookup_nil (i : Nat) : genLookup [] i = 0#16 := rfl

/-! ## Microcode memory -/

/-- A read after a store in microcode memory. -/
theorem microLookup_microStore (cells : MicroCells) (i j : MicroAddr) (v : Word) :
    microLookup (microStore cells i v) j = if j = i then v else microLookup cells j := by
  unfold microLookup microStore
  rw [Vector.getElem_set]
  by_cases h : j = i
  · simp [h]
  · rw [if_neg h, if_neg fun e => h (BitVec.eq_of_toNat_eq e.symm)]

/-- The microcode word at an address after reset (R371). -/
theorem microLookup_bootCells (image : List (MicroAddr × Word)) (i : MicroAddr) :
    microLookup (bootCells image) i = bootCell image i.toNat := by
  simp [microLookup, bootCells]

/-- Two microcode memories with the same words are the same data. -/
theorem microCells_ext {c d : MicroCells} (h : ∀ i, microLookup c i = microLookup d i) : c = d := by
  refine Vector.ext fun i hi => ?_
  have := h (BitVec.ofNat 8 i)
  simpa [microLookup, Nat.mod_eq_of_lt hi] using this

end Sys2Proof.Machine
end

