-- ==== Sys2Proof/Laws/State.lean ====
section
/-! SUPPORT. What each update does to each field of the state: one lemma per field per update, true by
rfl, so that no later proof unfolds a record update. -/

namespace Sys2Proof.Machine.State

/-! ## setA -/

@[simp] theorem setA_a (s : State) (v : Word) : (s.setA v).a = v := rfl
@[simp] theorem setA_cc (s : State) (v : Word) : (s.setA v).cc = s.cc := rfl
@[simp] theorem setA_mpc (s : State) (v : Word) : (s.setA v).mpc = s.mpc := rfl
@[simp] theorem setA_sr (s : State) (v : Word) : (s.setA v).sr = s.sr := rfl
@[simp] theorem setA_br (s : State) (v : Word) : (s.setA v).br = s.br := rfl
@[simp] theorem setA_ar (s : State) (v : Word) : (s.setA v).ar = s.ar := rfl
@[simp] theorem setA_cr (s : State) (v : Word) : (s.setA v).cr = s.cr := rfl
@[simp] theorem setA_dr (s : State) (v : Word) : (s.setA v).dr = s.dr := rfl
@[simp] theorem setA_mcr (s : State) (v : Word) : (s.setA v).mcr = s.mcr := rfl
@[simp] theorem setA_gen (s : State) (v : Word) : (s.setA v).gen = s.gen := rfl
@[simp] theorem setA_micro (s : State) (v : Word) : (s.setA v).micro = s.micro := rfl
@[simp] theorem setA_devices (s : State) (v : Word) : (s.setA v).devices = s.devices := rfl
@[simp] theorem setA_log (s : State) (v : Word) : (s.setA v).log = s.log := rfl
@[simp] theorem setA_faultMark (s : State) (v : Word) : (s.setA v).faultMark = s.faultMark := rfl
@[simp] theorem setA_outcome (s : State) (v : Word) : (s.setA v).outcome = s.outcome := rfl

/-! ## setCc -/

@[simp] theorem setCc_a (s : State) (v : Word) : (s.setCc v).a = s.a := rfl
@[simp] theorem setCc_cc (s : State) (v : Word) : (s.setCc v).cc = v.setWidth 11 := rfl
@[simp] theorem setCc_mpc (s : State) (v : Word) : (s.setCc v).mpc = s.mpc := rfl
@[simp] theorem setCc_sr (s : State) (v : Word) : (s.setCc v).sr = s.sr := rfl
@[simp] theorem setCc_br (s : State) (v : Word) : (s.setCc v).br = s.br := rfl
@[simp] theorem setCc_ar (s : State) (v : Word) : (s.setCc v).ar = s.ar := rfl
@[simp] theorem setCc_cr (s : State) (v : Word) : (s.setCc v).cr = s.cr := rfl
@[simp] theorem setCc_dr (s : State) (v : Word) : (s.setCc v).dr = s.dr := rfl
@[simp] theorem setCc_mcr (s : State) (v : Word) : (s.setCc v).mcr = s.mcr := rfl
@[simp] theorem setCc_gen (s : State) (v : Word) : (s.setCc v).gen = s.gen := rfl
@[simp] theorem setCc_micro (s : State) (v : Word) : (s.setCc v).micro = s.micro := rfl
@[simp] theorem setCc_devices (s : State) (v : Word) : (s.setCc v).devices = s.devices := rfl
@[simp] theorem setCc_log (s : State) (v : Word) : (s.setCc v).log = s.log := rfl
@[simp] theorem setCc_faultMark (s : State) (v : Word) : (s.setCc v).faultMark = s.faultMark := rfl
@[simp] theorem setCc_outcome (s : State) (v : Word) : (s.setCc v).outcome = s.outcome := rfl

/-! ## setAr -/

@[simp] theorem setAr_a (s : State) (v : Word) : (s.setAr v).a = s.a := rfl
@[simp] theorem setAr_cc (s : State) (v : Word) : (s.setAr v).cc = s.cc := rfl
@[simp] theorem setAr_mpc (s : State) (v : Word) : (s.setAr v).mpc = s.mpc := rfl
@[simp] theorem setAr_sr (s : State) (v : Word) : (s.setAr v).sr = s.sr := rfl
@[simp] theorem setAr_br (s : State) (v : Word) : (s.setAr v).br = s.br := rfl
@[simp] theorem setAr_ar (s : State) (v : Word) : (s.setAr v).ar = v.setWidth 11 := rfl
@[simp] theorem setAr_cr (s : State) (v : Word) : (s.setAr v).cr = s.cr := rfl
@[simp] theorem setAr_dr (s : State) (v : Word) : (s.setAr v).dr = s.dr := rfl
@[simp] theorem setAr_mcr (s : State) (v : Word) : (s.setAr v).mcr = s.mcr := rfl
@[simp] theorem setAr_gen (s : State) (v : Word) : (s.setAr v).gen = s.gen := rfl
@[simp] theorem setAr_micro (s : State) (v : Word) : (s.setAr v).micro = s.micro := rfl
@[simp] theorem setAr_devices (s : State) (v : Word) : (s.setAr v).devices = s.devices := rfl
@[simp] theorem setAr_log (s : State) (v : Word) : (s.setAr v).log = s.log := rfl
@[simp] theorem setAr_faultMark (s : State) (v : Word) : (s.setAr v).faultMark = s.faultMark := rfl
@[simp] theorem setAr_outcome (s : State) (v : Word) : (s.setAr v).outcome = s.outcome := rfl

/-! ## setCr -/

@[simp] theorem setCr_a (s : State) (v : Word) : (s.setCr v).a = s.a := rfl
@[simp] theorem setCr_cc (s : State) (v : Word) : (s.setCr v).cc = s.cc := rfl
@[simp] theorem setCr_mpc (s : State) (v : Word) : (s.setCr v).mpc = s.mpc := rfl
@[simp] theorem setCr_sr (s : State) (v : Word) : (s.setCr v).sr = s.sr := rfl
@[simp] theorem setCr_br (s : State) (v : Word) : (s.setCr v).br = s.br := rfl
@[simp] theorem setCr_ar (s : State) (v : Word) : (s.setCr v).ar = s.ar := rfl
@[simp] theorem setCr_cr (s : State) (v : Word) : (s.setCr v).cr = v := rfl
@[simp] theorem setCr_dr (s : State) (v : Word) : (s.setCr v).dr = s.dr := rfl
@[simp] theorem setCr_mcr (s : State) (v : Word) : (s.setCr v).mcr = s.mcr := rfl
@[simp] theorem setCr_gen (s : State) (v : Word) : (s.setCr v).gen = s.gen := rfl
@[simp] theorem setCr_micro (s : State) (v : Word) : (s.setCr v).micro = s.micro := rfl
@[simp] theorem setCr_devices (s : State) (v : Word) : (s.setCr v).devices = s.devices := rfl
@[simp] theorem setCr_log (s : State) (v : Word) : (s.setCr v).log = s.log := rfl
@[simp] theorem setCr_faultMark (s : State) (v : Word) : (s.setCr v).faultMark = s.faultMark := rfl
@[simp] theorem setCr_outcome (s : State) (v : Word) : (s.setCr v).outcome = s.outcome := rfl

/-! ## setDr -/

@[simp] theorem setDr_a (s : State) (v : Word) : (s.setDr v).a = s.a := rfl
@[simp] theorem setDr_cc (s : State) (v : Word) : (s.setDr v).cc = s.cc := rfl
@[simp] theorem setDr_mpc (s : State) (v : Word) : (s.setDr v).mpc = s.mpc := rfl
@[simp] theorem setDr_sr (s : State) (v : Word) : (s.setDr v).sr = s.sr := rfl
@[simp] theorem setDr_br (s : State) (v : Word) : (s.setDr v).br = s.br := rfl
@[simp] theorem setDr_ar (s : State) (v : Word) : (s.setDr v).ar = s.ar := rfl
@[simp] theorem setDr_cr (s : State) (v : Word) : (s.setDr v).cr = s.cr := rfl
@[simp] theorem setDr_dr (s : State) (v : Word) : (s.setDr v).dr = v := rfl
@[simp] theorem setDr_mcr (s : State) (v : Word) : (s.setDr v).mcr = s.mcr := rfl
@[simp] theorem setDr_gen (s : State) (v : Word) : (s.setDr v).gen = s.gen := rfl
@[simp] theorem setDr_micro (s : State) (v : Word) : (s.setDr v).micro = s.micro := rfl
@[simp] theorem setDr_devices (s : State) (v : Word) : (s.setDr v).devices = s.devices := rfl
@[simp] theorem setDr_log (s : State) (v : Word) : (s.setDr v).log = s.log := rfl
@[simp] theorem setDr_faultMark (s : State) (v : Word) : (s.setDr v).faultMark = s.faultMark := rfl
@[simp] theorem setDr_outcome (s : State) (v : Word) : (s.setDr v).outcome = s.outcome := rfl

/-! ## setBr -/

@[simp] theorem setBr_a (s : State) (v : Buffer) : (s.setBr v).a = s.a := rfl
@[simp] theorem setBr_cc (s : State) (v : Buffer) : (s.setBr v).cc = s.cc := rfl
@[simp] theorem setBr_mpc (s : State) (v : Buffer) : (s.setBr v).mpc = s.mpc := rfl
@[simp] theorem setBr_sr (s : State) (v : Buffer) : (s.setBr v).sr = s.sr := rfl
@[simp] theorem setBr_br (s : State) (v : Buffer) : (s.setBr v).br = v := rfl
@[simp] theorem setBr_ar (s : State) (v : Buffer) : (s.setBr v).ar = s.ar := rfl
@[simp] theorem setBr_cr (s : State) (v : Buffer) : (s.setBr v).cr = s.cr := rfl
@[simp] theorem setBr_dr (s : State) (v : Buffer) : (s.setBr v).dr = s.dr := rfl
@[simp] theorem setBr_mcr (s : State) (v : Buffer) : (s.setBr v).mcr = s.mcr := rfl
@[simp] theorem setBr_gen (s : State) (v : Buffer) : (s.setBr v).gen = s.gen := rfl
@[simp] theorem setBr_micro (s : State) (v : Buffer) : (s.setBr v).micro = s.micro := rfl
@[simp] theorem setBr_devices (s : State) (v : Buffer) : (s.setBr v).devices = s.devices := rfl
@[simp] theorem setBr_log (s : State) (v : Buffer) : (s.setBr v).log = s.log := rfl
@[simp] theorem setBr_faultMark (s : State) (v : Buffer) : (s.setBr v).faultMark = s.faultMark := rfl
@[simp] theorem setBr_outcome (s : State) (v : Buffer) : (s.setBr v).outcome = s.outcome := rfl

/-! ## setSr -/

@[simp] theorem setSr_a (s : State) (v : Status) : (s.setSr v).a = s.a := rfl
@[simp] theorem setSr_cc (s : State) (v : Status) : (s.setSr v).cc = s.cc := rfl
@[simp] theorem setSr_mpc (s : State) (v : Status) : (s.setSr v).mpc = s.mpc := rfl
@[simp] theorem setSr_sr (s : State) (v : Status) : (s.setSr v).sr = v := rfl
@[simp] theorem setSr_br (s : State) (v : Status) : (s.setSr v).br = s.br := rfl
@[simp] theorem setSr_ar (s : State) (v : Status) : (s.setSr v).ar = s.ar := rfl
@[simp] theorem setSr_cr (s : State) (v : Status) : (s.setSr v).cr = s.cr := rfl
@[simp] theorem setSr_dr (s : State) (v : Status) : (s.setSr v).dr = s.dr := rfl
@[simp] theorem setSr_mcr (s : State) (v : Status) : (s.setSr v).mcr = s.mcr := rfl
@[simp] theorem setSr_gen (s : State) (v : Status) : (s.setSr v).gen = s.gen := rfl
@[simp] theorem setSr_micro (s : State) (v : Status) : (s.setSr v).micro = s.micro := rfl
@[simp] theorem setSr_devices (s : State) (v : Status) : (s.setSr v).devices = s.devices := rfl
@[simp] theorem setSr_log (s : State) (v : Status) : (s.setSr v).log = s.log := rfl
@[simp] theorem setSr_faultMark (s : State) (v : Status) : (s.setSr v).faultMark = s.faultMark := rfl
@[simp] theorem setSr_outcome (s : State) (v : Status) : (s.setSr v).outcome = s.outcome := rfl

/-! ## setMpc -/

@[simp] theorem setMpc_a (s : State) (v : MicroAddr) : (s.setMpc v).a = s.a := rfl
@[simp] theorem setMpc_cc (s : State) (v : MicroAddr) : (s.setMpc v).cc = s.cc := rfl
@[simp] theorem setMpc_mpc (s : State) (v : MicroAddr) : (s.setMpc v).mpc = v := rfl
@[simp] theorem setMpc_sr (s : State) (v : MicroAddr) : (s.setMpc v).sr = s.sr := rfl
@[simp] theorem setMpc_br (s : State) (v : MicroAddr) : (s.setMpc v).br = s.br := rfl
@[simp] theorem setMpc_ar (s : State) (v : MicroAddr) : (s.setMpc v).ar = s.ar := rfl
@[simp] theorem setMpc_cr (s : State) (v : MicroAddr) : (s.setMpc v).cr = s.cr := rfl
@[simp] theorem setMpc_dr (s : State) (v : MicroAddr) : (s.setMpc v).dr = s.dr := rfl
@[simp] theorem setMpc_mcr (s : State) (v : MicroAddr) : (s.setMpc v).mcr = s.mcr := rfl
@[simp] theorem setMpc_gen (s : State) (v : MicroAddr) : (s.setMpc v).gen = s.gen := rfl
@[simp] theorem setMpc_micro (s : State) (v : MicroAddr) : (s.setMpc v).micro = s.micro := rfl
@[simp] theorem setMpc_devices (s : State) (v : MicroAddr) : (s.setMpc v).devices = s.devices := rfl
@[simp] theorem setMpc_log (s : State) (v : MicroAddr) : (s.setMpc v).log = s.log := rfl
@[simp] theorem setMpc_faultMark (s : State) (v : MicroAddr) :
    (s.setMpc v).faultMark = s.faultMark := rfl
@[simp] theorem setMpc_outcome (s : State) (v : MicroAddr) : (s.setMpc v).outcome = s.outcome := rfl

/-! ## setMcr -/

@[simp] theorem setMcr_a (s : State) (v : Word) : (s.setMcr v).a = s.a := rfl
@[simp] theorem setMcr_cc (s : State) (v : Word) : (s.setMcr v).cc = s.cc := rfl
@[simp] theorem setMcr_mpc (s : State) (v : Word) : (s.setMcr v).mpc = s.mpc := rfl
@[simp] theorem setMcr_sr (s : State) (v : Word) : (s.setMcr v).sr = s.sr := rfl
@[simp] theorem setMcr_br (s : State) (v : Word) : (s.setMcr v).br = s.br := rfl
@[simp] theorem setMcr_ar (s : State) (v : Word) : (s.setMcr v).ar = s.ar := rfl
@[simp] theorem setMcr_cr (s : State) (v : Word) : (s.setMcr v).cr = s.cr := rfl
@[simp] theorem setMcr_dr (s : State) (v : Word) : (s.setMcr v).dr = s.dr := rfl
@[simp] theorem setMcr_mcr (s : State) (v : Word) : (s.setMcr v).mcr = v := rfl
@[simp] theorem setMcr_gen (s : State) (v : Word) : (s.setMcr v).gen = s.gen := rfl
@[simp] theorem setMcr_micro (s : State) (v : Word) : (s.setMcr v).micro = s.micro := rfl
@[simp] theorem setMcr_devices (s : State) (v : Word) : (s.setMcr v).devices = s.devices := rfl
@[simp] theorem setMcr_log (s : State) (v : Word) : (s.setMcr v).log = s.log := rfl
@[simp] theorem setMcr_faultMark (s : State) (v : Word) : (s.setMcr v).faultMark = s.faultMark := rfl
@[simp] theorem setMcr_outcome (s : State) (v : Word) : (s.setMcr v).outcome = s.outcome := rfl

/-! ## skip -/

@[simp] theorem skip_a (s : State) : (s.skip).a = s.a := rfl
@[simp] theorem skip_cc (s : State) : (s.skip).cc = s.cc + 1#11 := rfl
@[simp] theorem skip_mpc (s : State) : (s.skip).mpc = s.mpc := rfl
@[simp] theorem skip_sr (s : State) : (s.skip).sr = s.sr := rfl
@[simp] theorem skip_br (s : State) : (s.skip).br = s.br := rfl
@[simp] theorem skip_ar (s : State) : (s.skip).ar = s.ar := rfl
@[simp] theorem skip_cr (s : State) : (s.skip).cr = s.cr := rfl
@[simp] theorem skip_dr (s : State) : (s.skip).dr = s.dr := rfl
@[simp] theorem skip_mcr (s : State) : (s.skip).mcr = s.mcr := rfl
@[simp] theorem skip_gen (s : State) : (s.skip).gen = s.gen := rfl
@[simp] theorem skip_micro (s : State) : (s.skip).micro = s.micro := rfl
@[simp] theorem skip_devices (s : State) : (s.skip).devices = s.devices := rfl
@[simp] theorem skip_log (s : State) : (s.skip).log = s.log := rfl
@[simp] theorem skip_faultMark (s : State) : (s.skip).faultMark = s.faultMark := rfl
@[simp] theorem skip_outcome (s : State) : (s.skip).outcome = s.outcome := rfl

/-! ## returning -/

@[simp] theorem returning_a (s : State) (o : StepOutcome) : (s.returning o).a = s.a := rfl
@[simp] theorem returning_cc (s : State) (o : StepOutcome) : (s.returning o).cc = s.cc := rfl
@[simp] theorem returning_mpc (s : State) (o : StepOutcome) : (s.returning o).mpc = s.mpc := rfl
@[simp] theorem returning_sr (s : State) (o : StepOutcome) : (s.returning o).sr = s.sr := rfl
@[simp] theorem returning_br (s : State) (o : StepOutcome) : (s.returning o).br = s.br := rfl
@[simp] theorem returning_ar (s : State) (o : StepOutcome) : (s.returning o).ar = s.ar := rfl
@[simp] theorem returning_cr (s : State) (o : StepOutcome) : (s.returning o).cr = s.cr := rfl
@[simp] theorem returning_dr (s : State) (o : StepOutcome) : (s.returning o).dr = s.dr := rfl
@[simp] theorem returning_mcr (s : State) (o : StepOutcome) : (s.returning o).mcr = s.mcr := rfl
@[simp] theorem returning_gen (s : State) (o : StepOutcome) : (s.returning o).gen = s.gen := rfl
@[simp] theorem returning_micro (s : State) (o : StepOutcome) : (s.returning o).micro = s.micro := rfl
@[simp] theorem returning_devices (s : State) (o : StepOutcome) :
    (s.returning o).devices = s.devices := rfl
@[simp] theorem returning_log (s : State) (o : StepOutcome) : (s.returning o).log = s.log := rfl
@[simp] theorem returning_faultMark (s : State) (o : StepOutcome) :
    (s.returning o).faultMark = s.faultMark := rfl
@[simp] theorem returning_outcome (s : State) (o : StepOutcome) :
    (s.returning o).outcome = some o := rfl

/-! ## raise -/

@[simp] theorem raise_a (s : State) (f : Fault) : (s.raise f).a = s.a := rfl
@[simp] theorem raise_cc (s : State) (f : Fault) : (s.raise f).cc = s.cc := rfl
@[simp] theorem raise_mpc (s : State) (f : Fault) : (s.raise f).mpc = s.mpc := rfl
@[simp] theorem raise_sr (s : State) (f : Fault) : (s.raise f).sr = s.sr := rfl
@[simp] theorem raise_br (s : State) (f : Fault) : (s.raise f).br = s.br := rfl
@[simp] theorem raise_ar (s : State) (f : Fault) : (s.raise f).ar = s.ar := rfl
@[simp] theorem raise_cr (s : State) (f : Fault) : (s.raise f).cr = s.cr := rfl
@[simp] theorem raise_dr (s : State) (f : Fault) : (s.raise f).dr = s.dr := rfl
@[simp] theorem raise_mcr (s : State) (f : Fault) : (s.raise f).mcr = s.mcr := rfl
@[simp] theorem raise_gen (s : State) (f : Fault) : (s.raise f).gen = s.gen := rfl
@[simp] theorem raise_micro (s : State) (f : Fault) : (s.raise f).micro = s.micro := rfl
@[simp] theorem raise_devices (s : State) (f : Fault) : (s.raise f).devices = s.devices := rfl
@[simp] theorem raise_log (s : State) (f : Fault) : (s.raise f).log = s.log := rfl
@[simp] theorem raise_faultMark (s : State) (f : Fault) : (s.raise f).faultMark = some f := rfl
@[simp] theorem raise_outcome (s : State) (f : Fault) : (s.raise f).outcome = some .fault := rfl

/-! ## setGenWord -/

@[simp] theorem setGenWord_a (s : State) (i : GenAddr) (v : Word) : (s.setGenWord i v).a = s.a := rfl
@[simp] theorem setGenWord_cc (s : State) (i : GenAddr) (v : Word) : (s.setGenWord i v).cc = s.cc := rfl
@[simp] theorem setGenWord_mpc (s : State) (i : GenAddr) (v : Word) :
    (s.setGenWord i v).mpc = s.mpc := rfl
@[simp] theorem setGenWord_sr (s : State) (i : GenAddr) (v : Word) : (s.setGenWord i v).sr = s.sr := rfl
@[simp] theorem setGenWord_br (s : State) (i : GenAddr) (v : Word) : (s.setGenWord i v).br = s.br := rfl
@[simp] theorem setGenWord_ar (s : State) (i : GenAddr) (v : Word) : (s.setGenWord i v).ar = s.ar := rfl
@[simp] theorem setGenWord_cr (s : State) (i : GenAddr) (v : Word) : (s.setGenWord i v).cr = s.cr := rfl
@[simp] theorem setGenWord_dr (s : State) (i : GenAddr) (v : Word) : (s.setGenWord i v).dr = s.dr := rfl
@[simp] theorem setGenWord_mcr (s : State) (i : GenAddr) (v : Word) :
    (s.setGenWord i v).mcr = s.mcr := rfl
@[simp] theorem setGenWord_gen (s : State) (i : GenAddr) (v : Word) :
    (s.setGenWord i v).gen = genStore s.gen i.toNat v := rfl
@[simp] theorem setGenWord_micro (s : State) (i : GenAddr) (v : Word) :
    (s.setGenWord i v).micro = s.micro := rfl
@[simp] theorem setGenWord_devices (s : State) (i : GenAddr) (v : Word) :
    (s.setGenWord i v).devices = s.devices := rfl
@[simp] theorem setGenWord_log (s : State) (i : GenAddr) (v : Word) :
    (s.setGenWord i v).log = s.log := rfl
@[simp] theorem setGenWord_faultMark (s : State) (i : GenAddr) (v : Word) :
    (s.setGenWord i v).faultMark = s.faultMark := rfl
@[simp] theorem setGenWord_outcome (s : State) (i : GenAddr) (v : Word) :
    (s.setGenWord i v).outcome = s.outcome := rfl

/-! ## setMicroWord -/

@[simp] theorem setMicroWord_a (s : State) (i : MicroAddr) (v : Word) :
    (s.setMicroWord i v).a = s.a := rfl
@[simp] theorem setMicroWord_cc (s : State) (i : MicroAddr) (v : Word) :
    (s.setMicroWord i v).cc = s.cc := rfl
@[simp] theorem setMicroWord_mpc (s : State) (i : MicroAddr) (v : Word) :
    (s.setMicroWord i v).mpc = s.mpc := rfl
@[simp] theorem setMicroWord_sr (s : State) (i : MicroAddr) (v : Word) :
    (s.setMicroWord i v).sr = s.sr := rfl
@[simp] theorem setMicroWord_br (s : State) (i : MicroAddr) (v : Word) :
    (s.setMicroWord i v).br = s.br := rfl
@[simp] theorem setMicroWord_ar (s : State) (i : MicroAddr) (v : Word) :
    (s.setMicroWord i v).ar = s.ar := rfl
@[simp] theorem setMicroWord_cr (s : State) (i : MicroAddr) (v : Word) :
    (s.setMicroWord i v).cr = s.cr := rfl
@[simp] theorem setMicroWord_dr (s : State) (i : MicroAddr) (v : Word) :
    (s.setMicroWord i v).dr = s.dr := rfl
@[simp] theorem setMicroWord_mcr (s : State) (i : MicroAddr) (v : Word) :
    (s.setMicroWord i v).mcr = s.mcr := rfl
@[simp] theorem setMicroWord_gen (s : State) (i : MicroAddr) (v : Word) :
    (s.setMicroWord i v).gen = s.gen := rfl
@[simp] theorem setMicroWord_micro (s : State) (i : MicroAddr) (v : Word) :
    (s.setMicroWord i v).micro = microStore s.micro i v := rfl
@[simp] theorem setMicroWord_devices (s : State) (i : MicroAddr) (v : Word) :
    (s.setMicroWord i v).devices = s.devices := rfl
@[simp] theorem setMicroWord_log (s : State) (i : MicroAddr) (v : Word) :
    (s.setMicroWord i v).log = s.log := rfl
@[simp] theorem setMicroWord_faultMark (s : State) (i : MicroAddr) (v : Word) :
    (s.setMicroWord i v).faultMark = s.faultMark := rfl
@[simp] theorem setMicroWord_outcome (s : State) (i : MicroAddr) (v : Word) :
    (s.setMicroWord i v).outcome = s.outcome := rfl

/-! ## setDevice -/

@[simp] theorem setDevice_a (s : State) (d : DevIndex) (v : Device) : (s.setDevice d v).a = s.a := rfl
@[simp] theorem setDevice_cc (s : State) (d : DevIndex) (v : Device) :
    (s.setDevice d v).cc = s.cc := rfl
@[simp] theorem setDevice_mpc (s : State) (d : DevIndex) (v : Device) :
    (s.setDevice d v).mpc = s.mpc := rfl
@[simp] theorem setDevice_sr (s : State) (d : DevIndex) (v : Device) :
    (s.setDevice d v).sr = s.sr := rfl
@[simp] theorem setDevice_br (s : State) (d : DevIndex) (v : Device) :
    (s.setDevice d v).br = s.br := rfl
@[simp] theorem setDevice_ar (s : State) (d : DevIndex) (v : Device) :
    (s.setDevice d v).ar = s.ar := rfl
@[simp] theorem setDevice_cr (s : State) (d : DevIndex) (v : Device) :
    (s.setDevice d v).cr = s.cr := rfl
@[simp] theorem setDevice_dr (s : State) (d : DevIndex) (v : Device) :
    (s.setDevice d v).dr = s.dr := rfl
@[simp] theorem setDevice_mcr (s : State) (d : DevIndex) (v : Device) :
    (s.setDevice d v).mcr = s.mcr := rfl
@[simp] theorem setDevice_gen (s : State) (d : DevIndex) (v : Device) :
    (s.setDevice d v).gen = s.gen := rfl
@[simp] theorem setDevice_micro (s : State) (d : DevIndex) (v : Device) :
    (s.setDevice d v).micro = s.micro := rfl
@[simp] theorem setDevice_devices (s : State) (d : DevIndex) (v : Device) :
    (s.setDevice d v).devices = s.devices.set d.toNat v d.isLt := rfl
@[simp] theorem setDevice_log (s : State) (d : DevIndex) (v : Device) :
    (s.setDevice d v).log = s.log := rfl
@[simp] theorem setDevice_faultMark (s : State) (d : DevIndex) (v : Device) :
    (s.setDevice d v).faultMark = s.faultMark := rfl
@[simp] theorem setDevice_outcome (s : State) (d : DevIndex) (v : Device) :
    (s.setDevice d v).outcome = s.outcome := rfl

/-! ## clearReady -/

@[simp] theorem clearReady_a (s : State) : (s.clearReady).a = s.a := rfl
@[simp] theorem clearReady_cc (s : State) : (s.clearReady).cc = s.cc := rfl
@[simp] theorem clearReady_mpc (s : State) : (s.clearReady).mpc = s.mpc := rfl
@[simp] theorem clearReady_sr (s : State) : (s.clearReady).sr = s.sr := rfl
@[simp] theorem clearReady_br (s : State) : (s.clearReady).br = s.br := rfl
@[simp] theorem clearReady_ar (s : State) : (s.clearReady).ar = s.ar := rfl
@[simp] theorem clearReady_cr (s : State) : (s.clearReady).cr = s.cr := rfl
@[simp] theorem clearReady_dr (s : State) : (s.clearReady).dr = s.dr := rfl
@[simp] theorem clearReady_mcr (s : State) : (s.clearReady).mcr = s.mcr := rfl
@[simp] theorem clearReady_gen (s : State) : (s.clearReady).gen = s.gen := rfl
@[simp] theorem clearReady_micro (s : State) : (s.clearReady).micro = s.micro := rfl
@[simp] theorem clearReady_devices (s : State) :
    (s.clearReady).devices.toList = s.devices.toList.map fun v => { v with ready := false } := rfl
@[simp] theorem clearReady_log (s : State) : (s.clearReady).log = s.log := rfl
@[simp] theorem clearReady_faultMark (s : State) : (s.clearReady).faultMark = s.faultMark := rfl
@[simp] theorem clearReady_outcome (s : State) : (s.clearReady).outcome = s.outcome := rfl

/-! ## appendLog -/

@[simp] theorem appendLog_a (s : State) (e : LogEntry) : (s.appendLog e).a = s.a := rfl
@[simp] theorem appendLog_cc (s : State) (e : LogEntry) : (s.appendLog e).cc = s.cc := rfl
@[simp] theorem appendLog_mpc (s : State) (e : LogEntry) : (s.appendLog e).mpc = s.mpc := rfl
@[simp] theorem appendLog_sr (s : State) (e : LogEntry) : (s.appendLog e).sr = s.sr := rfl
@[simp] theorem appendLog_br (s : State) (e : LogEntry) : (s.appendLog e).br = s.br := rfl
@[simp] theorem appendLog_ar (s : State) (e : LogEntry) : (s.appendLog e).ar = s.ar := rfl
@[simp] theorem appendLog_cr (s : State) (e : LogEntry) : (s.appendLog e).cr = s.cr := rfl
@[simp] theorem appendLog_dr (s : State) (e : LogEntry) : (s.appendLog e).dr = s.dr := rfl
@[simp] theorem appendLog_mcr (s : State) (e : LogEntry) : (s.appendLog e).mcr = s.mcr := rfl
@[simp] theorem appendLog_gen (s : State) (e : LogEntry) : (s.appendLog e).gen = s.gen := rfl
@[simp] theorem appendLog_micro (s : State) (e : LogEntry) : (s.appendLog e).micro = s.micro := rfl
@[simp] theorem appendLog_devices (s : State) (e : LogEntry) :
    (s.appendLog e).devices = s.devices := rfl
@[simp] theorem appendLog_log (s : State) (e : LogEntry) :
    (s.appendLog e).log = ringAppend Config.logCapacity s.log e := rfl
@[simp] theorem appendLog_faultMark (s : State) (e : LogEntry) :
    (s.appendLog e).faultMark = s.faultMark := rfl
@[simp] theorem appendLog_outcome (s : State) (e : LogEntry) :
    (s.appendLog e).outcome = s.outcome := rfl

/-! ## setFlag -/

@[simp] theorem setFlag_a (s : State) (f : Flag) (b : Bool) : (s.setFlag f b).a = s.a := rfl
@[simp] theorem setFlag_cc (s : State) (f : Flag) (b : Bool) : (s.setFlag f b).cc = s.cc := rfl
@[simp] theorem setFlag_mpc (s : State) (f : Flag) (b : Bool) : (s.setFlag f b).mpc = s.mpc := rfl
@[simp] theorem setFlag_sr (s : State) (f : Flag) (b : Bool) :
    (s.setFlag f b).sr = statusWithBit s.sr (flagBit f) b := rfl
@[simp] theorem setFlag_br (s : State) (f : Flag) (b : Bool) : (s.setFlag f b).br = s.br := rfl
@[simp] theorem setFlag_ar (s : State) (f : Flag) (b : Bool) : (s.setFlag f b).ar = s.ar := rfl
@[simp] theorem setFlag_cr (s : State) (f : Flag) (b : Bool) : (s.setFlag f b).cr = s.cr := rfl
@[simp] theorem setFlag_dr (s : State) (f : Flag) (b : Bool) : (s.setFlag f b).dr = s.dr := rfl
@[simp] theorem setFlag_mcr (s : State) (f : Flag) (b : Bool) : (s.setFlag f b).mcr = s.mcr := rfl
@[simp] theorem setFlag_gen (s : State) (f : Flag) (b : Bool) : (s.setFlag f b).gen = s.gen := rfl
@[simp] theorem setFlag_micro (s : State) (f : Flag) (b : Bool) : (s.setFlag f b).micro = s.micro := rfl
@[simp] theorem setFlag_devices (s : State) (f : Flag) (b : Bool) :
    (s.setFlag f b).devices = s.devices := rfl
@[simp] theorem setFlag_log (s : State) (f : Flag) (b : Bool) : (s.setFlag f b).log = s.log := rfl
@[simp] theorem setFlag_faultMark (s : State) (f : Flag) (b : Bool) :
    (s.setFlag f b).faultMark = s.faultMark := rfl
@[simp] theorem setFlag_outcome (s : State) (f : Flag) (b : Bool) :
    (s.setFlag f b).outcome = s.outcome := rfl

/-! ## The accessors after an update of something else -/

@[simp] theorem setA_flag (s : State) (v : Word) (g : Flag) : (s.setA v).flag g = s.flag g := rfl
@[simp] theorem setCc_flag (s : State) (v : Word) (g : Flag) : (s.setCc v).flag g = s.flag g := rfl
@[simp] theorem setAr_flag (s : State) (v : Word) (g : Flag) : (s.setAr v).flag g = s.flag g := rfl
@[simp] theorem setCr_flag (s : State) (v : Word) (g : Flag) : (s.setCr v).flag g = s.flag g := rfl
@[simp] theorem setDr_flag (s : State) (v : Word) (g : Flag) : (s.setDr v).flag g = s.flag g := rfl
@[simp] theorem setBr_flag (s : State) (v : Buffer) (g : Flag) : (s.setBr v).flag g = s.flag g := rfl
@[simp] theorem setMpc_flag (s : State) (v : MicroAddr) (g : Flag) :
    (s.setMpc v).flag g = s.flag g := rfl
@[simp] theorem setMcr_flag (s : State) (v : Word) (g : Flag) : (s.setMcr v).flag g = s.flag g := rfl
@[simp] theorem skip_flag (s : State) (g : Flag) : (s.skip).flag g = s.flag g := rfl
@[simp] theorem returning_flag (s : State) (o : StepOutcome) (g : Flag) :
    (s.returning o).flag g = s.flag g := rfl
@[simp] theorem raise_flag (s : State) (f : Fault) (g : Flag) : (s.raise f).flag g = s.flag g := rfl
@[simp] theorem setGenWord_flag (s : State) (i : GenAddr) (v : Word) (g : Flag) :
    (s.setGenWord i v).flag g = s.flag g := rfl
@[simp] theorem setMicroWord_flag (s : State) (i : MicroAddr) (v : Word) (g : Flag) :
    (s.setMicroWord i v).flag g = s.flag g := rfl
@[simp] theorem setDevice_flag (s : State) (d : DevIndex) (v : Device) (g : Flag) :
    (s.setDevice d v).flag g = s.flag g := rfl
@[simp] theorem clearReady_flag (s : State) (g : Flag) : (s.clearReady).flag g = s.flag g := rfl
@[simp] theorem appendLog_flag (s : State) (e : LogEntry) (g : Flag) :
    (s.appendLog e).flag g = s.flag g := rfl

@[simp] theorem setA_device (s : State) (v : Word) (x : DevIndex) :
    (s.setA v).device x = s.device x := rfl
@[simp] theorem setCc_device (s : State) (v : Word) (x : DevIndex) :
    (s.setCc v).device x = s.device x := rfl
@[simp] theorem setAr_device (s : State) (v : Word) (x : DevIndex) :
    (s.setAr v).device x = s.device x := rfl
@[simp] theorem setCr_device (s : State) (v : Word) (x : DevIndex) :
    (s.setCr v).device x = s.device x := rfl
@[simp] theorem setDr_device (s : State) (v : Word) (x : DevIndex) :
    (s.setDr v).device x = s.device x := rfl
@[simp] theorem setBr_device (s : State) (v : Buffer) (x : DevIndex) :
    (s.setBr v).device x = s.device x := rfl
@[simp] theorem setMpc_device (s : State) (v : MicroAddr) (x : DevIndex) :
    (s.setMpc v).device x = s.device x := rfl
@[simp] theorem setMcr_device (s : State) (v : Word) (x : DevIndex) :
    (s.setMcr v).device x = s.device x := rfl
@[simp] theorem skip_device (s : State) (x : DevIndex) : (s.skip).device x = s.device x := rfl
@[simp] theorem returning_device (s : State) (o : StepOutcome) (x : DevIndex) :
    (s.returning o).device x = s.device x := rfl
@[simp] theorem raise_device (s : State) (f : Fault) (x : DevIndex) :
    (s.raise f).device x = s.device x := rfl
@[simp] theorem setGenWord_device (s : State) (i : GenAddr) (v : Word) (x : DevIndex) :
    (s.setGenWord i v).device x = s.device x := rfl
@[simp] theorem setMicroWord_device (s : State) (i : MicroAddr) (v : Word) (x : DevIndex) :
    (s.setMicroWord i v).device x = s.device x := rfl
@[simp] theorem appendLog_device (s : State) (e : LogEntry) (x : DevIndex) :
    (s.appendLog e).device x = s.device x := rfl
@[simp] theorem setSr_device (s : State) (v : Status) (x : DevIndex) :
    (s.setSr v).device x = s.device x := rfl
@[simp] theorem setFlag_device (s : State) (f : Flag) (b : Bool) (x : DevIndex) :
    (s.setFlag f b).device x = s.device x := rfl

@[simp] theorem setA_genWord (s : State) (v : Word) (x : GenAddr) :
    (s.setA v).genWord x = s.genWord x := rfl
@[simp] theorem setCc_genWord (s : State) (v : Word) (x : GenAddr) :
    (s.setCc v).genWord x = s.genWord x := rfl
@[simp] theorem setAr_genWord (s : State) (v : Word) (x : GenAddr) :
    (s.setAr v).genWord x = s.genWord x := rfl
@[simp] theorem setCr_genWord (s : State) (v : Word) (x : GenAddr) :
    (s.setCr v).genWord x = s.genWord x := rfl
@[simp] theorem setDr_genWord (s : State) (v : Word) (x : GenAddr) :
    (s.setDr v).genWord x = s.genWord x := rfl
@[simp] theorem setBr_genWord (s : State) (v : Buffer) (x : GenAddr) :
    (s.setBr v).genWord x = s.genWord x := rfl
@[simp] theorem setMpc_genWord (s : State) (v : MicroAddr) (x : GenAddr) :
    (s.setMpc v).genWord x = s.genWord x := rfl
@[simp] theorem setMcr_genWord (s : State) (v : Word) (x : GenAddr) :
    (s.setMcr v).genWord x = s.genWord x := rfl
@[simp] theorem skip_genWord (s : State) (x : GenAddr) : (s.skip).genWord x = s.genWord x := rfl
@[simp] theorem returning_genWord (s : State) (o : StepOutcome) (x : GenAddr) :
    (s.returning o).genWord x = s.genWord x := rfl
@[simp] theorem raise_genWord (s : State) (f : Fault) (x : GenAddr) :
    (s.raise f).genWord x = s.genWord x := rfl
@[simp] theorem setMicroWord_genWord (s : State) (i : MicroAddr) (v : Word) (x : GenAddr) :
    (s.setMicroWord i v).genWord x = s.genWord x := rfl
@[simp] theorem setDevice_genWord (s : State) (d : DevIndex) (v : Device) (x : GenAddr) :
    (s.setDevice d v).genWord x = s.genWord x := rfl
@[simp] theorem clearReady_genWord (s : State) (x : GenAddr) :
    (s.clearReady).genWord x = s.genWord x := rfl
@[simp] theorem appendLog_genWord (s : State) (e : LogEntry) (x : GenAddr) :
    (s.appendLog e).genWord x = s.genWord x := rfl
@[simp] theorem setSr_genWord (s : State) (v : Status) (x : GenAddr) :
    (s.setSr v).genWord x = s.genWord x := rfl
@[simp] theorem setFlag_genWord (s : State) (f : Flag) (b : Bool) (x : GenAddr) :
    (s.setFlag f b).genWord x = s.genWord x := rfl

@[simp] theorem setA_microWord (s : State) (v : Word) (x : MicroAddr) :
    (s.setA v).microWord x = s.microWord x := rfl
@[simp] theorem setCc_microWord (s : State) (v : Word) (x : MicroAddr) :
    (s.setCc v).microWord x = s.microWord x := rfl
@[simp] theorem setAr_microWord (s : State) (v : Word) (x : MicroAddr) :
    (s.setAr v).microWord x = s.microWord x := rfl
@[simp] theorem setCr_microWord (s : State) (v : Word) (x : MicroAddr) :
    (s.setCr v).microWord x = s.microWord x := rfl
@[simp] theorem setDr_microWord (s : State) (v : Word) (x : MicroAddr) :
    (s.setDr v).microWord x = s.microWord x := rfl
@[simp] theorem setBr_microWord (s : State) (v : Buffer) (x : MicroAddr) :
    (s.setBr v).microWord x = s.microWord x := rfl
@[simp] theorem setMpc_microWord (s : State) (v : MicroAddr) (x : MicroAddr) :
    (s.setMpc v).microWord x = s.microWord x := rfl
@[simp] theorem setMcr_microWord (s : State) (v : Word) (x : MicroAddr) :
    (s.setMcr v).microWord x = s.microWord x := rfl
@[simp] theorem skip_microWord (s : State) (x : MicroAddr) : (s.skip).microWord x = s.microWord x := rfl
@[simp] theorem returning_microWord (s : State) (o : StepOutcome) (x : MicroAddr) :
    (s.returning o).microWord x = s.microWord x := rfl
@[simp] theorem raise_microWord (s : State) (f : Fault) (x : MicroAddr) :
    (s.raise f).microWord x = s.microWord x := rfl
@[simp] theorem setGenWord_microWord (s : State) (i : GenAddr) (v : Word) (x : MicroAddr) :
    (s.setGenWord i v).microWord x = s.microWord x := rfl
@[simp] theorem setDevice_microWord (s : State) (d : DevIndex) (v : Device) (x : MicroAddr) :
    (s.setDevice d v).microWord x = s.microWord x := rfl
@[simp] theorem clearReady_microWord (s : State) (x : MicroAddr) :
    (s.clearReady).microWord x = s.microWord x := rfl
@[simp] theorem appendLog_microWord (s : State) (e : LogEntry) (x : MicroAddr) :
    (s.appendLog e).microWord x = s.microWord x := rfl
@[simp] theorem setSr_microWord (s : State) (v : Status) (x : MicroAddr) :
    (s.setSr v).microWord x = s.microWord x := rfl
@[simp] theorem setFlag_microWord (s : State) (f : Flag) (b : Bool) (x : MicroAddr) :
    (s.setFlag f b).microWord x = s.microWord x := rfl

end Sys2Proof.Machine.State
end

