-- ==== Sys2Proof/Laws/Flags.lean ====
section
/-! SUPPORT. The laws of the status word: writing one bit leaves the others (R34), and what the carry and
Z/N selectors can do (R224, R225). -/

namespace Sys2Proof.Machine

/-- A bit of a status word after one bit is written (R34). -/
theorem getLsbD_statusWithBit (sr : Status) {i : Nat} (j : Nat) (b : Bool) (h : i < 13) :
    (statusWithBit sr i b).getLsbD j = if j = i then b else sr.getLsbD j := by
  have key : (1#13 <<< i).getLsbD j = decide (j = i) := by
    rw [BitVec.getLsbD_shiftLeft, BitVec.getLsbD_one]
    by_cases hj : j = i
    · simp [hj, h]
    · by_cases hlt : j < i
      · simp [hlt, hj]
      · simp [hj, show ¬ j - i = 0 by omega]
  unfold statusWithBit
  split
  · next hb => rw [BitVec.getLsbD_or, key]; by_cases hj : j = i <;> simp [hj, hb]
  · next hb =>
    rw [BitVec.getLsbD_and, BitVec.getLsbD_not, key]
    by_cases hj : j = i
    · simp [hj, hb]
    · by_cases hlt : j < 13
      · simp [hj, hlt]
      · simp [hj, hlt, BitVec.getLsbD_of_ge sr j (by omega)]

/-- Every flag has a bit of its own in the 13-bit word (R36). -/
theorem flagBit_lt (f : Flag) : flagBit f < 13 := by cases f <;> decide

/-- Two flags share no bit (R36). -/
theorem flagBit_inj {f g : Flag} (h : flagBit f = flagBit g) : f = g := by
  cases f <;> cases g <;> first | rfl | cases h

/-- A flag after a flag is written (R34). -/
@[simp] theorem flag_setFlag (s : State) (f g : Flag) (b : Bool) :
    (s.setFlag f b).flag g = if g = f then b else s.flag g := by
  show (statusWithBit s.sr (flagBit f) b).getLsbD (flagBit g) = _
  rw [getLsbD_statusWithBit _ _ _ (flagBit_lt f)]
  by_cases h : g = f
  · simp [h]
  · rw [if_neg h, if_neg fun e => h (flagBit_inj e)]; rfl

/-- The carry update, once and for all (R224): C as selected, BR bit 16 cleared only by `fromBuffer`. -/
theorem updateCarry_eq (c : CarrySel) (s : State) :
    updateCarry c s =
      { s with
        sr := match c with
          | .keep => s.sr
          | .fromBuffer => statusWithBit s.sr 0 s.brCarry
          | .clear => statusWithBit s.sr 0 false
          | .set => statusWithBit s.sr 0 true
        br := match c with
          | .fromBuffer => s.brLow.setWidth 17
          | .keep | .clear | .set => s.br } := by
  cases c <;> rfl

/-- The carry update leaves the low 16 bits of BR (R225: its order with the Z/N update is no matter). -/
@[simp] theorem updateCarry_brLow (c : CarrySel) (s : State) : (updateCarry c s).brLow = s.brLow := by
  cases c
  case fromBuffer =>
    simp only [updateCarry, State.brLow, State.setBr_br]
    ext i hi
    simp
  all_goals rfl

/-- The Z/N update, once and for all (R225): SR alone. -/
theorem updateZn_eq (z : ZnSel) (s : State) :
    updateZn z s =
      { s with
        sr := match z with
          | .none => s.sr
          | .zero => statusWithBit s.sr 1 (s.brLow == 0#16)
          | .negative => statusWithBit s.sr 2 (s.brLow.getLsbD 15)
          | .both =>
            statusWithBit (statusWithBit s.sr 1 (s.brLow == 0#16)) 2 (s.brLow.getLsbD 15) } := by
  cases z <;> rfl

/-- A flag after the carry update: C as selected, every other flag kept (R224). -/
@[simp] theorem flag_updateCarry (c : CarrySel) (s : State) (g : Flag) :
    (updateCarry c s).flag g =
      if g = .carry then (match c with
        | .keep => s.flag .carry
        | .fromBuffer => s.brCarry
        | .clear => false
        | .set => true)
      else s.flag g := by
  cases c <;> by_cases h : g = .carry <;> simp [updateCarry, h]

/-- A flag after the Z/N update: Z and N as selected, every other flag kept (R225). -/
@[simp] theorem flag_updateZn (z : ZnSel) (s : State) (g : Flag) :
    (updateZn z s).flag g =
      if g = .zero ∧ (z = .zero ∨ z = .both) then s.brLow == 0#16
      else if g = .negative ∧ (z = .negative ∨ z = .both) then s.brLow.getLsbD 15
      else s.flag g := by
  cases z <;> cases g <;> (simp [updateZn, updateZero, updateNegative]; try rfl)

end Sys2Proof.Machine
end

