-- ==== Sys2Proof/Laws/Ops.lean ====
section
/-! SUPPORT. What each shared operation can do, said once: memory ports, the paths of the micro
instructions, the end of a micro-step and the macro run. Proofs cite these and do not unfold them. -/

namespace Sys2Proof.Machine

/-! ## The device array and the banks through the state -/

/-- A device after one is replaced. -/
@[simp] theorem device_setDevice (s : State) (d x : DevIndex) (v : Device) :
    (s.setDevice d v).device x = if x = d then v else s.device x := by
  unfold State.device State.setDevice
  rw [Vector.getElem_set]
  by_cases h : x = d
  · simp [h]
  · rw [if_neg h, if_neg fun e => h (BitVec.eq_of_toNat_eq e.symm)]

/-- A device after reset-all-ready (R228). -/
@[simp] theorem device_clearReady (s : State) (x : DevIndex) :
    s.clearReady.device x = { s.device x with ready := false } := by
  simp [State.device, State.clearReady]

/-- A microcode word after one is written. -/
@[simp] theorem microWord_setMicroWord (s : State) (i x : MicroAddr) (v : Word) :
    (s.setMicroWord i v).microWord x = if x = i then v else s.microWord x :=
  microLookup_microStore ..

/-- A general word after one is written, in a state whose memory is in canonical form. -/
theorem genWord_setGenWord {s : State} (i x : GenAddr) (v : Word) (h : genWf s.gen = true) :
    (s.setGenWord i v).genWord x = if x = i then v else s.genWord x := by
  show genLookup (genStore s.gen i.toNat v) x.toNat = _
  rw [genLookup_genStore _ h]
  by_cases hx : x = i
  · simp [hx]
  · rw [if_neg hx, if_neg fun e => hx (BitVec.eq_of_toNat_eq e)]; rfl

/-- An 11-bit address is inside general memory (R25). -/
theorem genAddr_lt (i : GenAddr) : i.toNat < Config.genWords := i.isLt

/-- The engine's read is always inside the bank (R67). -/
@[simp] theorem memRead_gen (i : GenAddr) (s : State) : memRead .gen i.toNat s = some (s.genWord i) :=
  if_pos i.isLt

/-- The engine's write is always inside the bank (R67). -/
@[simp] theorem memWrite_gen (i : GenAddr) (v : Word) (s : State) :
    memWrite .gen i.toNat v s = some (s.setGenWord i v) :=
  if_pos i.isLt

/-- A write is refused outside the bank and changes one cell of one bank inside it (R62, R67). -/
theorem memWrite_cases (b : Bank) (i : Nat) (v : Word) (s : State) :
    (memWrite b i v s = none ∧ b.size ≤ i) ∨
    (b = .gen ∧ i < Config.genWords ∧ memWrite b i v s = some { s with gen := genStore s.gen i v }) ∨
    (b = .micro ∧ i < Config.microWords ∧
      memWrite b i v s = some (s.setMicroWord (BitVec.ofNat 8 i) v)) := by
  unfold memWrite
  by_cases h : i < b.size
  · cases b
    · exact .inr (.inl ⟨rfl, h, if_pos h⟩)
    · exact .inr (.inr ⟨rfl, h, if_pos h⟩)
  · exact .inl ⟨if_neg h, by omega⟩

/-- A memory write keeps the canonical form. -/
theorem memWrite_genWf {b : Bank} {i : Nat} {v : Word} {s t : State} (h : genWf s.gen = true)
    (hw : memWrite b i v s = some t) : genWf t.gen = true := by
  rcases memWrite_cases b i v s with ⟨hn, _⟩ | ⟨_, hi, he⟩ | ⟨_, _, he⟩
  · rw [hn] at hw; cases hw
  · rw [he] at hw; cases hw; exact genWf_genStore h hi
  · rw [he] at hw; cases hw; exact h

/-- reset_memory leaves general memory in canonical form. -/
theorem resetMemory_genWf (s : State) : genWf (resetMemory s).gen = true := rfl

/-- Construction leaves general memory in canonical form. -/
theorem reset_genWf : genWf State.reset.gen = true := rfl

/-! ## The paths of the micro-instructions -/

/-- The memory access of OP0 never faults (R342) and is one of three (R194). -/
theorem memAccess_eq (m : Mem) (s : State) :
    memAccess m s = .ok (match m with
      | .none => s
      | .read => s.setDr (s.genWord s.ar)
      | .write => s.setGenWord s.ar s.dr) := by
  cases m <;> simp [memAccess]

/-- The state on which OP0 selects its operands: after the memory access (R194). -/
def afterAccess (m : Mem) (s : State) : State :=
  match m with
  | .none => s
  | .read => s.setDr (s.genWord s.ar)
  | .write => s.setGenWord s.ar s.dr

/-- The unshifted part of OP0 (R190): the access, then BR from the operands read after it. -/
theorem aluCompute_eq (left : LeftSel) (right : RightSel) (inv : Inv) (op : AluOp) (mem : Mem)
    (s : State) :
    aluCompute left right inv op mem s =
      ((afterAccess mem s).setBr (aluResult op
        (complementLeft inv (leftOperand left (afterAccess mem s)))
        (complementRight inv (rightOperand right (afterAccess mem s))))).returning .success := by
  unfold aluCompute afterAccess
  rw [memAccess_eq]

/-- Everything OP0 can do: a shift, a computation, or the fault of an unlisted field (R190, R203). -/
theorem aluPath_cases (left : LeftSel) (right : RightSel) (inv : Code Inv) (op : Code AluOp)
    (shift : Code Shift) (mem : Code Mem) (s : State) :
    (∃ v, aluPath left right inv op shift mem s = (s.setBr v).returning .success) ∨
    (∃ m v, mem = .listed m ∧
      aluPath left right inv op shift mem s = ((afterAccess m s).setBr v).returning .success) ∨
    (Op0Listed inv op shift mem = false ∧
      aluPath left right inv op shift mem s = s.raise (.unlistedField s.mcr s.mpc)) := by
  cases shift with
  | unlisted => exact .inr (.inr ⟨rfl, rfl⟩)
  | listed sh =>
    cases sh with
    | right => exact .inl ⟨_, rfl⟩
    | left => exact .inl ⟨_, rfl⟩
    | none =>
      cases mem with
      | unlisted => exact .inr (.inr ⟨by simp [Op0Listed, Code.isListed], rfl⟩)
      | listed m =>
        cases inv with
        | unlisted => exact .inr (.inr ⟨by simp [Op0Listed, Code.isListed], rfl⟩)
        | listed i =>
          cases op with
          | unlisted => exact .inr (.inr ⟨by simp [Op0Listed, Code.isListed], rfl⟩)
          | listed o => exact .inr (.inl ⟨m, _, rfl, aluCompute_eq left right i o m s⟩)

/-- Everything the I/O protocol can do before SR bit 12 is cleared: one of four cases, chosen by DR bits
9..8 (R280). -/
theorem ioCase_cases (s : State) :
    (s.dr &&& 0x0300#16 = 0x0300#16 ∧ ioCase s = ioOut (ioDevice s) s) ∨
    (s.dr &&& 0x0300#16 ≠ 0x0300#16 ∧ s.dr &&& 0x0200#16 ≠ 0#16 ∧ ioCase s = ioIn (ioDevice s) s) ∨
    (s.dr &&& 0x0200#16 = 0#16 ∧ s.dr &&& 0x0100#16 ≠ 0#16 ∧ ioCase s = ioTest (ioDevice s) s) ∨
    (s.dr &&& 0x0200#16 = 0#16 ∧ s.dr &&& 0x0100#16 = 0#16 ∧ ioCase s = ioClear (ioDevice s) s) := by
  unfold ioCase
  by_cases h3 : s.dr &&& 0x0300#16 = 0x0300#16
  · exact .inl ⟨h3, if_pos h3⟩
  · have e2 : s.dr &&& 0x0200#16 = 0#16 ∨ s.dr &&& 0x0200#16 ≠ 0#16 := em _
    rw [if_neg h3]
    rcases e2 with h2 | h2
    · rw [if_neg (not_not.2 h2)]
      by_cases h1 : s.dr &&& 0x0100#16 = 0#16
      · exact .inr (.inr (.inr ⟨h2, h1, if_neg (not_not.2 h1)⟩))
      · exact .inr (.inr (.inl ⟨h2, h1, if_pos h1⟩))
    · exact .inr (.inl ⟨h3, h2, if_pos h2⟩)

/-- Connect is the protocol or a log entry (R230). -/
theorem connect_cases (s : State) :
    (s.dr = s.cr ∧ connect s = ioProtocol s) ∨
    (s.dr ≠ s.cr ∧ connect s = s.appendLog (.ignoredConnect s.dr s.cr)) := by
  unfold connect
  by_cases h : s.dr = s.cr
  · exact .inl ⟨h, if_pos h⟩
  · exact .inr ⟨h, if_neg h⟩

/-- Write-back, once and for all (R226). -/
theorem writeBack_eq (w : WbSel) (v : Word) (s : State) :
    writeBack w v s =
      { s with
        a := if w = .a ∨ w = .all then v else s.a
        cc := if w = .cc then v.setWidth 11 else s.cc
        ar := if w = .ar ∨ w = .all then v.setWidth 11 else s.ar
        cr := if w = .cr ∨ w = .all then v else s.cr
        dr := if w = .dr ∨ w = .all then v else s.dr } := by
  cases w <;> rfl

/-- The state after the flag updates of the status path (R224, R225): SR and BR alone differ. -/
theorem flagsUpdated_eq (st : StatusFields) (s : State) :
    flagsUpdated st s =
      { s with sr := (flagsUpdated st s).sr, br := (flagsUpdated st s).br } := by
  unfold flagsUpdated
  rw [updateZn_eq, updateCarry_eq]

/-- The flag updates leave the low 16 bits of BR (R225). -/
@[simp] theorem flagsUpdated_brLow (st : StatusFields) (s : State) :
    (flagsUpdated st s).brLow = s.brLow := by
  unfold flagsUpdated
  rw [updateZn_eq]
  exact updateCarry_brLow st.carry s

/-- The status path, once and for all (R220): the flag updates and the write-back. -/
theorem statusPath_eq (st : StatusFields) (s : State) :
    statusPath st s =
      { s with
        a := if st.wb = .a ∨ st.wb = .all then s.brLow else s.a
        cc := if st.wb = .cc then s.brLow.setWidth 11 else s.cc
        ar := if st.wb = .ar ∨ st.wb = .all then s.brLow.setWidth 11 else s.ar
        cr := if st.wb = .cr ∨ st.wb = .all then s.brLow else s.cr
        dr := if st.wb = .dr ∨ st.wb = .all then s.brLow else s.dr
        sr := (flagsUpdated st s).sr
        br := (flagsUpdated st s).br
        outcome := some .success } := by
  unfold statusPath
  rw [writeBack_eq, flagsUpdated_brLow]
  rw [flagsUpdated_eq]
  rfl

/-- A device after the I/O path: after connect, and not ready where reset-all-ready is set (R227, R228). -/
theorem device_ioPath (conn rdy di ei : Bool) (s : State) (x : DevIndex) :
    (ioPath conn rdy di ei s).device x =
      if rdy then { (whenSet conn connect s).device x with ready := false }
      else (whenSet conn connect s).device x := by
  cases rdy <;> cases di <;> cases ei <;> simp [ioPath, whenSet]

/-- A flag after the I/O path: after connect, and bit 4 by DI and then EI (R227, R229). -/
theorem flag_ioPath (conn rdy di ei : Bool) (s : State) (g : Flag) :
    (ioPath conn rdy di ei s).flag g =
      if g = .interruptsAllowed then ei || (!di && (whenSet conn connect s).flag g)
      else (whenSet conn connect s).flag g := by
  cases rdy <;> cases di <;> cases ei <;> by_cases h : g = .interruptsAllowed <;>
    simp [ioPath, whenSet, h]

/-- The I/O path changes devices and SR alone, besides what connect changes (R227). -/
theorem ioPath_eq (conn rdy di ei : Bool) (s : State) :
    ioPath conn rdy di ei s =
      { whenSet conn connect s with
        devices := (ioPath conn rdy di ei s).devices
        sr := (ioPath conn rdy di ei s).sr
        outcome := some .success } := by
  cases rdy <;> cases di <;> cases ei <;> rfl

/-! ## The end of a micro-step and the runs -/

/-- The end of a micro-step changes MPC alone, to the next address or not at all (R262). -/
theorem advance_cases (s : State) :
    ((s.outcome = some .jumped ∨ s.outcome = some .fault) ∧ advance s = s) ∨
    (s.outcome ≠ some .jumped ∧ s.outcome ≠ some .fault ∧ advance s = s.setMpc (s.mpc + 1#8)) := by
  unfold advance
  split <;> simp_all

/-- An unmarked state always has a micro-step, and a micro-step needs one (R341). -/
theorem microStep_cases (s : State) :
    (∃ f, s.faultMark = some f ∧ microStep s = .fault f) ∨
    (s.faultMark = none ∧
      microStep s = .next (advance (runTerm (decodeTerm (fetchWord s)) (fetched s)))) := by
  unfold microStep
  cases h : s.faultMark with
  | none => exact .inr ⟨rfl, rfl⟩
  | some f => exact .inl ⟨f, rfl, rfl⟩

/-- The induction over a macro step: what every micro-step keeps, the macro step keeps. -/
theorem runMacro_induct {P : State → Prop}
    (keep : ∀ s t, P s → microStep s = .next t → P t) :
    ∀ (fuel : Nat) (s t : State), P s → runMacro fuel s = .next t → P t := by
  intro fuel
  induction fuel with
  | zero => intro s t _ h; cases h
  | succ n ih =>
    intro s t hs h
    unfold runMacro at h
    cases hm : microStep s with
    | next u =>
      simp only [hm] at h
      split at h
      · cases h; exact keep s _ hs hm
      · exact ih u t (keep s u hs hm) h
    | fault f => simp [hm] at h
    | refused r => simp [hm] at h

/-- A macro step that answers a state answers one after which it is over (R263, R341). -/
theorem runMacro_over : ∀ (fuel : Nat) (s t : State),
    runMacro fuel s = .next t → macroStepOver t = true := by
  intro fuel
  induction fuel with
  | zero => intro s t h; cases h
  | succ n ih =>
    intro s t h
    unfold runMacro at h
    cases hm : microStep s with
    | next u =>
      simp only [hm] at h
      split at h
      · next ho => cases h; exact ho
      · exact ih u t h
    | fault f => simp [hm] at h
    | refused r => simp [hm] at h

/-! ## The log -/

/-- The ring is never longer than its capacity (R350). -/
theorem ringAppend_length (capacity : Nat) (entries : List LogEntry) (e : LogEntry) :
    (ringAppend capacity entries e).length ≤ capacity := by
  simp [ringAppend]
  omega

end Sys2Proof.Machine
end

