-- ==== Sys2Proof/Laws/Loader.lean ====
section
/-! SUPPORT. What applying a program image does, said once for every loader: all the cells it lists, a later
one for the same index winning, and nothing else. -/

namespace Sys2Proof.Machine

/-- A read after a write, in a state whose general memory is in canonical form: the word at its cell, every
other cell of both banks as before. -/
theorem memRead_memWrite {b : Bank} {i : Nat} {v : Word} {s t : State} (h : genWf s.gen = true)
    (hw : memWrite b i v s = some t) (other : Bank) (j : Nat) :
    memRead other j t = if other = b ∧ j = i then some v else memRead other j s := by
  rcases memWrite_cases b i v s with ⟨hn, _⟩ | ⟨rfl, hi, he⟩ | ⟨rfl, hi, he⟩
  · rw [hn] at hw; cases hw
  · rw [he] at hw; cases hw
    cases other with
    | gen =>
      by_cases hj : j = i
      · subst hj; simp [memRead, Bank.size, hi, genLookup_genStore _ h]
      · simp [memRead, hj, genLookup_genStore _ h]
    | micro => simp [memRead]
  · rw [he] at hw; cases hw
    cases other with
    | gen => simp [memRead, State.setMicroWord]
    | micro =>
      by_cases hj : j = i
      · subst hj; simp [memRead, Bank.size, hi, State.setMicroWord, microLookup_microStore]
      · by_cases hlt : j < Config.microWords
        · have hne : BitVec.ofNat 8 j ≠ BitVec.ofNat 8 i := by
            intro e
            have := congrArg BitVec.toNat e
            simp only [BitVec.toNat_ofNat, Config.microWords] at this hi hlt
            omega
          simp [memRead, Bank.size, hlt, hj, State.setMicroWord, microLookup_microStore, hne]
        · simp [memRead, Bank.size, hlt, hj]

/-- A write inside the bank is done, and changes the two banks alone. -/
theorem memWrite_inside {b : Bank} {i : Nat} (v : Word) (s : State) (hi : i < b.size) :
    ∃ t, memWrite b i v s = some t ∧ t = { s with gen := t.gen, micro := t.micro } := by
  rcases memWrite_cases b i v s with ⟨_, hn⟩ | ⟨_, _, he⟩ | ⟨_, _, he⟩
  · omega
  · exact ⟨_, he, rfl⟩
  · exact ⟨_, he, rfl⟩

/-- Applying an image whose cells are inside the bank: it succeeds, keeps the canonical form, writes each
listed cell with its last word, and changes nothing else. -/
theorem placeCells_inside (b : Bank) (cells : Cells) :
    ∀ s : State, genWf s.gen = true → (∀ c ∈ cells, c.1 < b.size) →
    ∃ u, placeCells b cells s = some u ∧ genWf u.gen = true ∧
      u = { s with gen := u.gen, micro := u.micro } ∧
      (∀ (other : Bank) (i : Nat), (other ≠ b ∨ ∀ c ∈ cells, c.1 ≠ i) →
        memRead other i u = memRead other i s) ∧
      (∀ before c after, cells = before ++ c :: after → (∀ d ∈ after, d.1 ≠ c.1) →
        memRead b c.1 u = some c.2) := by
  induction cells with
  | nil => exact fun s h _ => ⟨s, rfl, h, rfl, fun _ _ _ => rfl, by simp⟩
  | cons e rest ih =>
    intro s h hin
    obtain ⟨t, ht, hframe⟩ := memWrite_inside e.2 s (hin e (List.mem_cons_self ..))
    obtain ⟨u, hu, hwf, hfr, hkeep, hput⟩ :=
      ih t (memWrite_genWf h ht) fun c hc => hin c (List.mem_cons_of_mem _ hc)
    have hread := memRead_memWrite h ht
    refine ⟨u, by rw [placeCells, ht]; exact hu, hwf, by rw [hfr, hframe], ?_, ?_⟩
    · intro other i hne
      rw [hkeep other i (hne.imp_right fun g c hc => g c (List.mem_cons_of_mem _ hc)), hread, if_neg]
      rintro ⟨rfl, rfl⟩
      rcases hne with g | g
      · exact g rfl
      · exact g e (List.mem_cons_self ..) rfl
    · intro before c after hsplit hlast
      cases before with
      | nil =>
        obtain ⟨rfl, rfl⟩ := List.cons.inj hsplit
        rw [hkeep b e.1 (.inr hlast), hread, if_pos ⟨rfl, rfl⟩]
      | cons x before' =>
        obtain ⟨rfl, rfl⟩ := List.cons.inj hsplit
        exact hput before' c after rfl hlast

end Sys2Proof.Machine
end

