-- ==== Sys2Proof/Laws/PerInstr.lean ====
section
/-! SUPPORT. The family RowMatch: the word the encoder gives an instruction carries the fixed bits of that
instruction's row of spec/opcode_table.json (its `mask` and `match`), whatever its operands. -/

namespace Sys2Proof.Laws

/-- The `mask` of an instruction's row of the opcode table. -/
def rowMask : Instr → Word
  | .mcOp0 .. => 0xC000#16
  | .mcHalt .. => 0xC008#16
  | .mcIoConn .. => 0xC108#16
  | .mcIoRdy .. => 0xC208#16
  | .mcIoDi .. => 0xC408#16
  | .mcIoEi .. => 0xC808#16
  | .mcFlagsWb .. => 0xCF08#16
  | .mcCtrl .. => 0x8000#16
  | .isz .. | .and .. | .jsr .. | .mov .. | .add .. | .adc .. | .sub .. | .bcs .. | .bpl .. | .bmi ..
  | .beq .. | .br .. => 0xF000#16
  | .clf .. | .tsf .. | .input .. | .output .. | .hlt | .nop | .cla | .clc | .cma | .cmc | .rol | .ror
  | .inc | .dec | .ei | .di => 0xFF00#16

/-- The `match` of an instruction's row of the opcode table. -/
def rowMatch : Instr → Word
  | .mcOp0 .. => 0x0000#16
  | .mcHalt .. => 0x4008#16
  | .mcIoConn .. => 0x4100#16
  | .mcIoRdy .. => 0x4200#16
  | .mcIoDi .. => 0x4400#16
  | .mcIoEi .. => 0x4800#16
  | .mcFlagsWb .. => 0x4000#16
  | .mcCtrl .. => 0x8000#16
  | .isz .. => 0x0000#16
  | .and .. => 0x1000#16
  | .jsr .. => 0x2000#16
  | .mov .. => 0x3000#16
  | .add .. => 0x4000#16
  | .adc .. => 0x5000#16
  | .sub .. => 0x6000#16
  | .bcs .. => 0x8000#16
  | .bpl .. => 0x9000#16
  | .bmi .. => 0xA000#16
  | .beq .. => 0xB000#16
  | .br .. => 0xC000#16
  | .clf .. => 0xE000#16
  | .tsf .. => 0xE100#16
  | .input .. => 0xE200#16
  | .output .. => 0xE300#16
  | .hlt => 0xF000#16
  | .nop => 0xF100#16
  | .cla => 0xF200#16
  | .clc => 0xF300#16
  | .cma => 0xF400#16
  | .cmc => 0xF500#16
  | .rol => 0xF600#16
  | .ror => 0xF700#16
  | .inc => 0xF800#16
  | .dec => 0xF900#16
  | .ei => 0xFA00#16
  | .di => 0xFB00#16

/-- The address-kind words keep the opcode bits of their row (R98, R99). -/
theorem addressWord_and (m : Mnemonic) (x : Bool) (addr : GenAddr)
    (h : m.mask &&& 0xF000#16 = m.mask) : addressWord m x addr &&& 0xF000#16 = m.mask := by
  have hx : (BitVec.ofBool x).setWidth 16 <<< 11 &&& 0xF000#16 = 0#16 := by cases x <;> decide
  have ha : addr.setWidth 16 &&& 0xF000#16 = 0#16 := by
    ext i hi
    rw [BitVec.getElem_and, BitVec.getElem_setWidth]
    by_cases hlt : i < 11
    · have : (0xF000#16)[i] = false := by interval_cases i <;> simp
      simp [this]
    · simp [BitVec.getLsbD_of_ge addr i (by omega)]
  have dist : ∀ a b c : Word, (a ||| b) &&& c = a &&& c ||| b &&& c := by
    intro a b c
    ext i hi
    simp [Bool.and_or_distrib_right]
  rw [addressWord, dist, dist, h, hx, ha]
  simp

/-- The io-kind words keep the opcode bits of their row (R99). -/
theorem deviceWord_and (m : Mnemonic) (dev : DevIndex) (h : m.mask &&& 0xFF00#16 = m.mask) :
    deviceWord m dev &&& 0xFF00#16 = m.mask := by
  revert dev h
  cases m <;> decide

namespace RowMatch

/-- The encoded word carries its row's fixed bits. -/
def Statement (i : Instr) : Prop := encode i &&& rowMask i = rowMatch i

/-- The fixed bits of OP1 words: the class, the halt bit and the I/O flags. -/
theorem op1_and (io : IoFlags) (halt : Bool) (st : StatusFields) :
    encodeTerm (.op1 io halt st) &&& 0xCF08#16 =
      encodeTerm (.op1 io halt ⟨.keep, .none, .none⟩) := by
  have h : ∀ (e d r c x : BitVec 1) (k z : BitVec 2) (w : BitVec 3),
      (1#2 ++ 0#2 ++ e ++ d ++ r ++ c ++ k ++ z ++ x ++ w : Word) &&& 0xCF08#16 =
        (1#2 ++ 0#2 ++ e ++ d ++ r ++ c ++ 0#2 ++ 0#2 ++ x ++ 0#3 : Word) := by
    intro e d r c x k z w
    ext n hn
    simp only [BitVec.getElem_and, BitVec.getElem_append]
    interval_cases n <;> simp
  exact h ..

/-- A narrower mask sees what the fixed bits show. -/
theorem op1_and_sub (mask : Word) (hm : 0xCF08#16 &&& mask = mask) (io : IoFlags) (halt : Bool)
    (st : StatusFields) :
    encodeTerm (.op1 io halt st) &&& mask =
      encodeTerm (.op1 io halt ⟨.keep, .none, .none⟩) &&& mask := by
  rw [← op1_and io halt st, BitVec.and_assoc, hm]

theorem mcOp0 (left : LeftSel) (right : RightSel) (inv : Code Inv) (op : Code AluOp)
    (shift : Code Shift) (mem : Code Mem) : Statement (.mcOp0 left right inv op shift mem) := by
  have h : ∀ (b r i o s m : BitVec 2),
      (0#2 ++ b ++ 0#2 ++ r ++ i ++ o ++ s ++ m : Word) &&& 0xC000#16 = 0#16 := by
    intro b r i o s m
    ext k hk
    simp only [BitVec.getElem_and, BitVec.getElem_append]
    interval_cases k <;> simp
  exact h ..

theorem mcHalt (io : IoFlags) (st : StatusFields) : Statement (.mcHalt io st) := by
  show encodeTerm (.op1 io true st) &&& 0xC008#16 = 0x4008#16
  rw [op1_and_sub _ (by decide)]
  obtain ⟨c, r, d, e⟩ := io
  cases c <;> cases r <;> cases d <;> cases e <;> rfl

theorem mcIoConn (rdy di ei : Bool) (st : StatusFields) : Statement (.mcIoConn rdy di ei st) := by
  show encodeTerm (.op1 ⟨true, rdy, di, ei⟩ false st) &&& 0xC108#16 = 0x4100#16
  rw [op1_and_sub _ (by decide)]
  cases rdy <;> cases di <;> cases ei <;> rfl

theorem mcIoRdy (di ei : Bool) (st : StatusFields) : Statement (.mcIoRdy di ei st) := by
  show encodeTerm (.op1 ⟨false, true, di, ei⟩ false st) &&& 0xC208#16 = 0x4200#16
  rw [op1_and_sub _ (by decide)]
  cases di <;> cases ei <;> rfl

theorem mcIoDi (ei : Bool) (st : StatusFields) : Statement (.mcIoDi ei st) := by
  show encodeTerm (.op1 ⟨false, false, true, ei⟩ false st) &&& 0xC408#16 = 0x4400#16
  rw [op1_and_sub _ (by decide)]
  cases ei <;> rfl

theorem mcIoEi (st : StatusFields) : Statement (.mcIoEi st) := by
  show encodeTerm (.op1 ⟨false, false, false, true⟩ false st) &&& 0xC808#16 = 0x4800#16
  rw [op1_and_sub _ (by decide)]
  rfl

theorem mcFlagsWb (st : StatusFields) : Statement (.mcFlagsWb st) := by
  show encodeTerm (.op1 ⟨false, false, false, false⟩ false st) &&& 0xCF08#16 = 0x4000#16
  rw [op1_and]
  rfl

theorem mcCtrl (cmp : Bool) (reg : CtrlReg) (bit : BitVec 4) (target : MicroAddr) :
    Statement (.mcCtrl cmp reg bit target) := by
  have h : ∀ (c : BitVec 1) (r : BitVec 2) (b : BitVec 4) (t : BitVec 8),
      (1#1 ++ c ++ r ++ b ++ t : Word) &&& 0x8000#16 = 0x8000#16 := by
    intro c r b t
    ext k hk
    simp only [BitVec.getElem_and, BitVec.getElem_append]
    interval_cases k <;> simp
  exact h ..

theorem isz (indirect : Bool) (addr : GenAddr) : Statement (.isz indirect addr) :=
  addressWord_and .ISZ indirect addr (by decide)

theorem and (indirect : Bool) (addr : GenAddr) : Statement (.and indirect addr) :=
  addressWord_and .AND indirect addr (by decide)

theorem jsr (indirect : Bool) (addr : GenAddr) : Statement (.jsr indirect addr) :=
  addressWord_and .JSR indirect addr (by decide)

theorem mov (indirect : Bool) (addr : GenAddr) : Statement (.mov indirect addr) :=
  addressWord_and .MOV indirect addr (by decide)

theorem add (indirect : Bool) (addr : GenAddr) : Statement (.add indirect addr) :=
  addressWord_and .ADD indirect addr (by decide)

theorem adc (indirect : Bool) (addr : GenAddr) : Statement (.adc indirect addr) :=
  addressWord_and .ADC indirect addr (by decide)

theorem sub (indirect : Bool) (addr : GenAddr) : Statement (.sub indirect addr) :=
  addressWord_and .SUB indirect addr (by decide)

theorem bcs (indirect : Bool) (addr : GenAddr) : Statement (.bcs indirect addr) :=
  addressWord_and .BCS indirect addr (by decide)

theorem bpl (indirect : Bool) (addr : GenAddr) : Statement (.bpl indirect addr) :=
  addressWord_and .BPL indirect addr (by decide)

theorem bmi (indirect : Bool) (addr : GenAddr) : Statement (.bmi indirect addr) :=
  addressWord_and .BMI indirect addr (by decide)

theorem beq (indirect : Bool) (addr : GenAddr) : Statement (.beq indirect addr) :=
  addressWord_and .BEQ indirect addr (by decide)

theorem br (indirect : Bool) (addr : GenAddr) : Statement (.br indirect addr) :=
  addressWord_and .BR indirect addr (by decide)

theorem clf (dev : DevIndex) : Statement (.clf dev) := deviceWord_and .CLF dev (by decide)

theorem tsf (dev : DevIndex) : Statement (.tsf dev) := deviceWord_and .TSF dev (by decide)

theorem input (dev : DevIndex) : Statement (.input dev) := deviceWord_and .IN dev (by decide)

theorem output (dev : DevIndex) : Statement (.output dev) := deviceWord_and .OUT dev (by decide)

theorem hlt : Statement .hlt := rfl

theorem nop : Statement .nop := rfl

theorem cla : Statement .cla := rfl

theorem clc : Statement .clc := rfl

theorem cma : Statement .cma := rfl

theorem cmc : Statement .cmc := rfl

theorem rol : Statement .rol := rfl

theorem ror : Statement .ror := rfl

theorem inc : Statement .inc := rfl

theorem dec : Statement .dec := rfl

theorem ei : Statement .ei := rfl

theorem di : Statement .di := rfl

end RowMatch

end Sys2Proof.Laws
end

