-- ==== Sys2Proof/Machine/Intended.lean ====
section
/-! DEFINITION. The intended effects of the macro instructions (spec/40_macro_decoder.md R140 to R172), as
a yardstick for microprograms: informative, from general knowledge of BEVM, and NOT the meaning of any
instruction (WARNING 2, D35). A microprogram implements an instruction from a state when the macro step
ends in a state that meets the intent (`Met`). -/

namespace Sys2Proof.Machine

/-- What a macro instruction intends. `none` for a flag: the effect line does not say. -/
structure Intent where
  /-- the accumulator after it -/
  a : Word
  /-- the command counter after it -/
  cc : GenAddr
  /-- the one general cell it writes, with the word -/
  store : Option (GenAddr × Word)
  /-- C after it -/
  c : Option Bool
  /-- Z after it -/
  z : Option Bool
  /-- N after it -/
  n : Option Bool
  /-- SR bit 4 after it -/
  interrupts : Option Bool
  /-- SR bit 6 after it -/
  deviceReady : Option Bool
  /-- the one device it changes -/
  device : Option (DevIndex × Device)
  deriving DecidableEq, Repr

/-- The address of the next instruction: the fetch convention advances CC first (R141). -/
def nextCc (s : State) : GenAddr := s.cc + 1#11

/-- The effective address (R140): the operand, or the low 11 bits of the cell it names. -/
def effectiveAddress (indirect : Bool) (addr : GenAddr) (s : State) : GenAddr :=
  if indirect then (s.genWord addr).setWidth 11 else addr

/-- The operand word at the effective address. -/
def operandWord (indirect : Bool) (addr : GenAddr) (s : State) : Word :=
  s.genWord (effectiveAddress indirect addr s)

/-- Nothing but the fetch, every flag and device kept. -/
def intentQuiet (s : State) : Intent :=
  { a := s.a, cc := nextCc s, store := none, c := some (s.flag .carry), z := some (s.flag .zero),
    n := some (s.flag .negative), interrupts := some (s.flag .interruptsAllowed),
    deviceReady := some (s.flag .deviceReady), device := none }

/-- An arithmetic result: A gets the low 16 bits, C bit 16, Z and N follow A (R147 to R149, R164, R165). -/
def intentSum (sum : Nat) (s : State) : Intent :=
  let v := BitVec.ofNat 16 sum
  { intentQuiet s with
    a := v, c := some ((BitVec.ofNat 17 sum).getLsbD 16), z := some (v == 0#16),
    n := some (v.getLsbD 15) }

/-- A conditional branch to the effective address (R150 to R154). -/
def intentBranch (taken : Bool) (indirect : Bool) (addr : GenAddr) (s : State) : Intent :=
  { intentQuiet s with cc := if taken then effectiveAddress indirect addr s else nextCc s }

/-- ISZ (R143). -/
def intentIsz (indirect : Bool) (addr : GenAddr) (s : State) : Intent :=
  let v := operandWord indirect addr s + 1#16
  { intentQuiet s with
    store := some (effectiveAddress indirect addr s, v),
    cc := if v.getLsbD 15 then nextCc s else nextCc s + 1#11 }

/-- AND (R144): C unchanged. -/
def intentAnd (indirect : Bool) (addr : GenAddr) (s : State) : Intent :=
  let v := s.a &&& operandWord indirect addr s
  { intentQuiet s with a := v, z := some (v == 0#16), n := some (v.getLsbD 15) }

/-- JSR (R145, R172): the return address goes to the entry cell. -/
def intentJsr (indirect : Bool) (addr : GenAddr) (s : State) : Intent :=
  let ea := effectiveAddress indirect addr s
  { intentQuiet s with store := some (ea, (nextCc s).setWidth 16), cc := ea + 1#11 }

/-- MOV (R146). -/
def intentMov (indirect : Bool) (addr : GenAddr) (s : State) : Intent :=
  { intentQuiet s with store := some (effectiveAddress indirect addr s, s.a) }

/-- ADD (R147). -/
def intentAdd (indirect : Bool) (addr : GenAddr) (s : State) : Intent :=
  intentSum (s.a.toNat + (operandWord indirect addr s).toNat) s

/-- ADC (R148). -/
def intentAdc (indirect : Bool) (addr : GenAddr) (s : State) : Intent :=
  intentSum (s.a.toNat + (operandWord indirect addr s).toNat + (s.flag .carry).toNat) s

/-- SUB (R149). -/
def intentSub (indirect : Bool) (addr : GenAddr) (s : State) : Intent :=
  intentSum (s.a.toNat + (~~~(operandWord indirect addr s)).toNat + 1) s

/-- CLA (R158): flags as the microprogram sets them. -/
def intentCla (s : State) : Intent :=
  { intentQuiet s with a := 0#16, c := none, z := none, n := none }

/-- CLC (R159). -/
def intentClc (s : State) : Intent := { intentQuiet s with c := some false, z := none, n := none }

/-- CMA (R160): flags as the microprogram sets them. -/
def intentCma (s : State) : Intent :=
  { intentQuiet s with a := ~~~s.a, c := none, z := none, n := none }

/-- CMC (R161). -/
def intentCmc (s : State) : Intent :=
  { intentQuiet s with c := some (!s.flag .carry), z := none, n := none }

/-- ROL (R162). -/
def intentRol (s : State) : Intent :=
  { intentQuiet s with
    a := s.a <<< 1 ||| (BitVec.ofBool (s.flag .carry)).setWidth 16, c := some (s.a.getLsbD 15),
    z := none, n := none }

/-- ROR (R163). -/
def intentRor (s : State) : Intent :=
  { intentQuiet s with
    a := (BitVec.ofBool (s.flag .carry)).setWidth 16 <<< 15 ||| s.a >>> 1, c := some (s.a.getLsbD 0),
    z := none, n := none }

/-- INC (R164). -/
def intentInc (s : State) : Intent := intentSum (s.a.toNat + 1) s

/-- DEC (R165). -/
def intentDec (s : State) : Intent := intentSum (s.a.toNat + 0xFFFF) s

/-- EI and DI (R166, R167). -/
def intentInterrupts (allowed : Bool) (s : State) : Intent :=
  { intentQuiet s with interrupts := some allowed }

/-- CLF (R168): the device's ready flag is cleared. -/
def intentClf (d : DevIndex) (s : State) : Intent :=
  { intentQuiet s with device := some (d, { s.device d with ready := false }) }

/-- TSF (R169): SR bit 6 is the ready flag, and a ready device skips an instruction. -/
def intentTsf (d : DevIndex) (s : State) : Intent :=
  { intentQuiet s with
    deviceReady := some (s.device d).ready,
    cc := if (s.device d).ready then nextCc s + 1#11 else nextCc s }

/-- IN (R170). -/
def intentIn (d : DevIndex) (s : State) : Intent :=
  { intentQuiet s with a := s.a &&& 0xFF00#16 ||| (s.device d).data.setWidth 16 }

/-- OUT (R171). -/
def intentOut (d : DevIndex) (s : State) : Intent :=
  { intentQuiet s with device := some (d, { s.device d with data := s.a.extractLsb' 0 8 }) }

/-- The intent of a macro instruction from the state before its fetch, its word already placed at CC; a
micro-instruction has none. HLT and NOP intend nothing more than the fetch (R156, R157): HLT's stop is
the halt word its microprogram reaches. -/
def intent (i : Instr) (s : State) : Option Intent :=
  match i with
  | .mcOp0 .. | .mcHalt .. | .mcIoConn .. | .mcIoRdy .. | .mcIoDi .. | .mcIoEi .. | .mcFlagsWb ..
  | .mcCtrl .. => none
  | .isz x addr => some (intentIsz x addr s)
  | .and x addr => some (intentAnd x addr s)
  | .jsr x addr => some (intentJsr x addr s)
  | .mov x addr => some (intentMov x addr s)
  | .add x addr => some (intentAdd x addr s)
  | .adc x addr => some (intentAdc x addr s)
  | .sub x addr => some (intentSub x addr s)
  | .bcs x addr => some (intentBranch (s.flag .carry) x addr s)
  | .bpl x addr => some (intentBranch (!s.flag .negative) x addr s)
  | .bmi x addr => some (intentBranch (s.flag .negative) x addr s)
  | .beq x addr => some (intentBranch (s.flag .zero) x addr s)
  | .br x addr => some (intentBranch true x addr s)
  | .clf dev => some (intentClf dev s)
  | .tsf dev => some (intentTsf dev s)
  | .input dev => some (intentIn dev s)
  | .output dev => some (intentOut dev s)
  | .hlt => some (intentQuiet s)
  | .nop => some (intentQuiet s)
  | .cla => some (intentCla s)
  | .clc => some (intentClc s)
  | .cma => some (intentCma s)
  | .cmc => some (intentCmc s)
  | .rol => some (intentRol s)
  | .ror => some (intentRor s)
  | .inc => some (intentInc s)
  | .dec => some (intentDec s)
  | .ei => some (intentInterrupts true s)
  | .di => some (intentInterrupts false s)

/-- Whether a flag is as intended, where the intent says. -/
def flagMet (wanted : Option Bool) (actual : Bool) : Bool :=
  match wanted with
  | none => true
  | some b => b == actual

/-- General memory as intended: `s`'s, with the one store. -/
def intendedGen (e : Intent) (s : State) : GenCells :=
  match e.store with
  | none => s.gen
  | some (i, v) => genStore s.gen i.toNat v

/-- The devices as intended: `s`'s, with the one change. -/
def intendedDevices (e : Intent) (s : State) : Vector Device 16 :=
  match e.device with
  | none => s.devices
  | some (d, v) => (s.setDevice d v).devices

/-- Whether `t`, reached by a macro step from `s`, meets an intent computed on `s`. -/
def Met (e : Intent) (s t : State) : Bool :=
  t.a == e.a && t.cc == e.cc && t.gen == intendedGen e s && t.devices == intendedDevices e s &&
    flagMet e.c (t.flag .carry) && flagMet e.z (t.flag .zero) && flagMet e.n (t.flag .negative) &&
    flagMet e.interrupts (t.flag .interruptsAllowed) && flagMet e.deviceReady (t.flag .deviceReady)

/-- Whether the microprogram in `s` implements the macro instruction `i` from `s`. -/
def implements (i : Instr) (s : State) : Bool :=
  match intent i (placeMacro (encode i) s), runMacroWord (encode i) s with
  | some e, .next t => t.faultMark.isNone && Met e (placeMacro (encode i) s) t
  | _, _ => false

end Sys2Proof.Machine
end

