-- ==== Sys2Proof/Tests/Slice0.lean ====
section
/-! SUPPORT. Tests: the vectors of spec/95_test_vectors.md (named V-... there), and a witness for the
hypotheses of every statement that has some. No expected value comes from the model. -/

open Sys2Proof Sys2Proof.Machine Sys2Proof.Spec

namespace Sys2Proof.Tests

-- one theorem after another: each thread of a parallel elaboration reserves a large stack
set_option Elab.async false

/-! ## Helpers -/

/-- The next state of an outcome. -/
def nextOf (o : Host.Outcome State Fault Refusal) : Option State :=
  match o with
  | .next t => some t
  | .fault _ => none
  | .refused _ => none

/-- One micro-step of the word `w` from `s`. -/
def stepOf (w : Nat) (s : State) : Option State := nextOf (step (s.withFetchWord 16 w))

/-- One macro instruction from `s`. -/
def execOf (i : Instr) (s : State) : Option State := nextOf (exec i s)

/-- Words put in MICRO from the address `n`. -/
def placedFrom (n : Nat) (ws : List Nat) (s : State) : State :=
  match ws with
  | [] => s
  | w :: rest => placedFrom (n + 1) rest (s.setMicroWord (BitVec.ofNat 8 n) (BitVec.ofNat 16 w))

/-- Words put in MICRO from address 0, where MPC stands after construction. -/
def placed (ws : List Nat) (s : State) : State := placedFrom 0 ws s

/-- The construction state with device 5 given. -/
def withDev5 (data : Nat) (ready : Bool) : State :=
  State.reset.setDevice 5#4 ⟨BitVec.ofNat 8 data, ready⟩

/-! ## Well-formedness: an ill-formed term for each check -/

theorem test_wf_shift_unlisted :
    (Instr.mcOp0 .none .none (.listed .none) (.listed .sum) .unlisted (.listed .none)).wellFormed
      = false := by decide

theorem test_wf_inv_unlisted :
    (Instr.mcOp0 .a .dr .unlisted (.listed .sum) (.listed .none) (.listed .none)).wellFormed
      = false := by decide

theorem test_wf_op_unlisted :
    (Instr.mcOp0 .a .dr (.listed .none) .unlisted (.listed .none) (.listed .none)).wellFormed
      = false := by decide

theorem test_wf_mem_unlisted :
    (Instr.mcOp0 .a .dr (.listed .none) (.listed .sum) (.listed .none) .unlisted).wellFormed
      = false := by decide

theorem test_wf_active_shift_masks :
    (Instr.mcOp0 .a .dr .unlisted .unlisted (.listed .right) .unlisted).wellFormed = true := by decide

/-! ## Decoding: a word written out from R91 to R93 or R131 for every constructor -/

theorem test_decode_op0 : decodeMicro 0x1160#16 =
    .mcOp0 .a .dr (.listed .left) (.listed .and) (.listed .none) (.listed .none) := by decide

theorem test_decode_op0_unlisted : decodeMicro 0x3FFF#16 =
    .mcOp0 .cr .cc .unlisted .unlisted .unlisted .unlisted := by decide

theorem test_decode_halt : decodeMicro 0x4F08#16 =
    .mcHalt ⟨true, true, true, true⟩ ⟨.keep, .none, .none⟩ := by decide

theorem test_decode_io :
    decodeMicro 0x4140#16 = .mcIoConn false false false ⟨.fromBuffer, .none, .none⟩ ∧
    decodeMicro 0x4200#16 = .mcIoRdy false false ⟨.keep, .none, .none⟩ ∧
    decodeMicro 0x4C00#16 = .mcIoDi true ⟨.keep, .none, .none⟩ ∧
    decodeMicro 0x4875#16 = .mcIoEi ⟨.fromBuffer, .both, .a⟩ := by decide

theorem test_decode_flags_wb : decodeMicro 0x40A6#16 =
    .mcFlagsWb ⟨.clear, .negative, .reserved⟩ := by decide

theorem test_decode_ctrl : decodeMicro 0x9F10#16 = .mcCtrl false .dr 15#4 0x10#8 ∧
    decodeMicro 0xFF05#16 = .mcCtrl true .a 15#4 0x05#8 := by decide

theorem test_decode_address_kind :
    decodeMacro 0x0802#16 = .isz true 2#11 ∧ decodeMacro 0x1010#16 = .and false 0x010#11 ∧
    decodeMacro 0x2100#16 = .jsr false 0x100#11 ∧ decodeMacro 0x3820#16 = .mov true 0x020#11 ∧
    decodeMacro 0x4FFF#16 = .add true 0x7FF#11 ∧ decodeMacro 0x5020#16 = .adc false 0x020#11 ∧
    decodeMacro 0x6020#16 = .sub false 0x020#11 ∧ decodeMacro 0x8040#16 = .bcs false 0x040#11 ∧
    decodeMacro 0x9040#16 = .bpl false 0x040#11 ∧ decodeMacro 0xA040#16 = .bmi false 0x040#11 ∧
    decodeMacro 0xB123#16 = .beq false 0x123#11 ∧ decodeMacro 0xC006#16 = .br false 6#11 := by decide

theorem test_decode_io_kind :
    decodeMacro 0xE003#16 = .clf 3#4 ∧ decodeMacro 0xE105#16 = .tsf 5#4 ∧
    decodeMacro 0xE205#16 = .input 5#4 ∧ decodeMacro 0xE3FF#16 = .output 15#4 := by decide

theorem test_decode_simple_kind :
    decodeMacro 0xF000#16 = .hlt ∧ decodeMacro 0xF100#16 = .nop ∧ decodeMacro 0xF200#16 = .cla ∧
    decodeMacro 0xF300#16 = .clc ∧ decodeMacro 0xF400#16 = .cma ∧ decodeMacro 0xF500#16 = .cmc ∧
    decodeMacro 0xF600#16 = .rol ∧ decodeMacro 0xF700#16 = .ror ∧ decodeMacro 0xF800#16 = .inc ∧
    decodeMacro 0xF900#16 = .dec ∧ decodeMacro 0xFA00#16 = .ei ∧ decodeMacro 0xFB00#16 = .di := by
  decide

/-- V-MD10 to V-MD14: words that are not canonical. -/
theorem test_decode_non_canonical :
    decodeMacro 0x7123#16 = .mov false 0x123#11 ∧ decodeMacro 0xD456#16 = .adc false 0x456#11 ∧
    decodeMacro 0xFF00#16 = .ror ∧ decodeMacro 0xE400#16 = .clf 0#4 ∧
    decodeMacro 0xF2AB#16 = .cla := by decide

/-- The words of the source's load example and of P1 to P5. -/
theorem test_encode :
    encode (.isz false 2#11) = 0x0002#16 ∧ encode (.br false 6#11) = 0xC006#16 ∧
    encode (.add false 0x020#11) = 0x4020#16 ∧ encode (.output 7#4) = 0xE307#16 ∧
    encode (.mcFlagsWb ⟨.fromBuffer, .both, .a⟩) = 0x4075#16 ∧
    encode (.mcCtrl false .sr 6#4 0#8) = 0x8600#16 := by decide

theorem test_decodeTableWord : decodeTableWord 16 0x1100 =
    some (.mcOp0 .a .dr (.listed .none) (.listed .sum) (.listed .none) (.listed .none)) ∧
    decodeTableWord 32 0x1100 = none := by decide

/-! ## OP0 (V-AL...) -/

theorem test_al3_sum_carry :
    (stepOf 0x1100 { State.reset with a := 0xFFFF#16, dr := 0xFFFF#16 }).map
      (fun t => (t.br, t.mpc, t.mcr, t.outcome))
      = some (0x1FFFE#17, 1#8, 0x1100#16, some .success) := by decide

theorem test_al5_subtract :
    (stepOf 0x1190 { State.reset with a := 3#16, dr := 5#16 }).map (·.br) = some 0x0FFFE#17 := by
  decide

theorem test_al8_complement_and :
    (stepOf 0x1160 { State.reset with a := 0xF0F0#16, dr := 0x3C3C#16 }).map (·.br)
      = some 0x00C0C#17 := by decide

theorem test_al15_cc_complement :
    (stepOf 0x0380 { State.reset with cc := 0x7FF#11 }).map (·.br) = some 0x0F800#17 := by decide

theorem test_al16_status_operand :
    (stepOf 0x2000 { State.reset with sr := 0x1ABC#13 }).map (·.br) = some 0x01ABC#17 := by decide

theorem test_al21_read_before_operands :
    (stepOf 0x0101 { State.reset with ar := 0x010#11, gen := [(0x010, 0xBEEF#16)], dr := 0x1111#16 }).map
      (fun t => (t.dr, t.br)) = some (0xBEEF#16, 0x0BEEF#17) := by decide

theorem test_al22_write_last_cell :
    (stepOf 0x0002 { State.reset with ar := 0x7FF#11, dr := 0xCAFE#16 }).map (fun t => (t.gen, t.br))
      = some ([(0x7FF, 0xCAFE#16)], 0#17) := by decide

theorem test_al25_shift_left :
    (stepOf 0x0008 { State.reset with a := 0x8001#16, sr := 1#13 }).map (fun t => (t.br, t.a, t.sr))
      = some (0x10003#17, 0x8001#16, 1#13) := by decide

theorem test_al26_shift_right :
    (stepOf 0x0004 { State.reset with a := 0x0003#16, sr := 1#13 }).map (·.br) = some 0x18001#17 := by
  decide

theorem test_al28_shift_masks_memory :
    (stepOf 0x0005 { State.reset with a := 2#16, ar := 0x010#11, gen := [(0x010, 0x1234#16)] }).map
      (fun t => (t.br, t.dr)) = some (0x00001#17, 0#16) := by decide

theorem test_al31_spare_bits :
    (stepOf 0x0C00 { State.reset with br := 0x1FFFF#17 }).map (·.br) = some 0#17 := by decide

theorem test_al32_fault :
    (stepOf 0x0003 { State.reset with br := 0x1FFFF#17 }).map
      (fun t => (t.faultMark, t.mpc, t.mcr, t.br))
      = some (some (.unlistedField 0x0003#16 0#8), 0#8, 0x0003#16, 0x1FFFF#17) := by decide

theorem test_al36_one_fault :
    (stepOf 0x000F State.reset).map (·.faultMark)
      = some (some (.unlistedField 0x000F#16 0#8)) := by decide

/-! ## OP1 (V-S...) -/

theorem test_s1_carry_zero_writeback :
    (stepOf 0x4075 { State.reset with br := 0x10000#17, a := 5#16 }).map (fun t => (t.sr, t.br, t.a))
      = some (3#13, 0#17, 0#16) := by decide

theorem test_s4_clear_carry_keeps_buffer :
    (stepOf 0x4080 { State.reset with br := 0x1FFFF#17, sr := 1#13 }).map (fun t => (t.sr, t.br))
      = some (0#13, 0x1FFFF#17) := by decide

theorem test_s7_negative_alone :
    (stepOf 0x4020 { State.reset with br := 0x08000#17, sr := 2#13 }).map (·.sr) = some 6#13 := by
  decide

theorem test_s15_write_all :
    (stepOf 0x4007 { State.reset with br := 0x01234#17, cc := 0x055#11 }).map
      (fun t => (t.ar, t.dr, t.cr, t.a, t.cc))
      = some (0x234#11, 0x1234#16, 0x1234#16, 0x1234#16, 0x055#11) := by decide

theorem test_s19_halt_masks_io :
    (stepOf 0x4F08 { State.reset with dr := 0x0305#16, cr := 0x0305#16, a := 0x12#16 }).map
      (fun t => (t.outcome, t.sr, t.devices, t.mpc))
      = some (some .halted, 0#13, State.reset.devices, 1#8) := by decide

theorem test_s21_connect_out :
    (stepOf 0x4100
      { State.reset with dr := 0xE305#16, cr := 0xE305#16, a := 0x00AB#16, sr := 0x1000#13 }).map
      (fun t => (t.device 5#4, t.sr)) = some (⟨0xAB#8, false⟩, 0#13) := by decide

/-- V-S22: one log entry, whatever the capacity, and SR bit 12 stays. -/
theorem test_s22_ignored_connect :
    ∃ t, stepOf 0x4100
      { State.reset with dr := 0xE305#16, cr := 0xE304#16, sr := 0x1000#13 } = some t ∧
      t.log = [.ignoredConnect 0xE305#16 0xE304#16] ∧ t.sr = 0x1000#13 := by
  refine ⟨_, rfl, ?_, by decide⟩
  show ringAppend Config.logCapacity [] _ = _
  rw [ringAppend, List.length_nil, Config.logCapacity, show 0 + 1 - (Config.logCapacityPred + 1) = 0 by omega]
  rfl

theorem test_s23_connect_masks_status :
    (stepOf 0x4140 { withDev5 0 true with dr := 0xE005#16, cr := 0xE005#16, br := 0x10000#17 }).map
      (fun t => (t.device 5#4, t.sr, t.br)) = some (⟨0#8, false⟩, 0#13, 0x10000#17) := by decide

theorem test_s24_reset_ready :
    (stepOf 0x4200 { withDev5 7 true with sr := 0x0040#13 }).map (fun t => (t.device 5#4, t.sr))
      = some (⟨7#8, false⟩, 0x0040#13) := by decide

theorem test_s25_disable :
    (stepOf 0x4400 { State.reset with sr := 0x0030#13 }).map (·.sr) = some 0x0020#13 := by decide

theorem test_s27_disable_then_enable : (stepOf 0x4C00 State.reset).map (·.sr) = some 0x0010#13 := by
  decide

theorem test_s28_enable_masks_status :
    (stepOf 0x4875 { State.reset with br := 0x10000#17, a := 1#16 }).map (fun t => (t.sr, t.br, t.a))
      = some (0x0010#13, 0x10000#17, 1#16) := by decide

/-! ## CTRL and the sequencer (V-CT..., V-SQ...) -/

theorem test_ct1_jump :
    (stepOf 0x8301 { State.reset with mpc := 0x40#8 }).map (fun t => (t.mpc, t.outcome))
      = some (0x01#8, some .jumped) := by decide

theorem test_ct7_missing_bit :
    (stepOf 0xCD20 { State.reset with mpc := 0x40#8, sr := 0x1FFF#13 }).map
      (fun t => (t.mpc, t.outcome)) = some (0x41#8, some .success) := by decide

theorem test_sq6_no_step_after_fault :
    step { State.reset with faultMark := some (.unlistedField 3#16 0x10#8) }
      = .fault (.unlistedField 3#16 0x10#8) := rfl

/-- V-SQ4: the host may step on after Halted. -/
theorem test_sq4_step_after_halt :
    (nextOf (stepMany 2 (placed [0x4008, 0x40C0] State.reset))).map
      (fun t => (t.sr, t.mpc, t.outcome)) = some (1#13, 2#8, some .success) := by decide

/-! ## The I/O protocol (V-IO...) -/

theorem test_io2_in :
    (ioProtocol { withDev5 0xAB false with dr := 0xE205#16, a := 0x1234#16 }).a = 0x12AB#16 := by
  decide

theorem test_io3_skip_wraps :
    (fun t : State => (t.sr, t.cc)) (ioProtocol { withDev5 0 true with dr := 0xE105#16, cc := 0x7FF#11 })
      = (0x0040#13, 0#11) := by decide

theorem test_io4_not_ready :
    (fun t : State => (t.sr, t.cc))
      (ioProtocol { withDev5 0 false with dr := 0xE105#16, cc := 0x020#11, sr := 0x0040#13 })
      = (0#13, 0x020#11) := by decide

theorem test_io6_bits_7_to_4_ignored :
    (ioProtocol { State.reset with dr := 0x0315#16, a := 0x0077#16 }).device 5#4
      = ⟨0x77#8, false⟩ := by decide

/-! ## Host ports (V-RF...) and reset -/

theorem test_rf_set_masks :
    getReg .ar (setReg .ar 0x1234#16 State.reset) = 0x234 ∧
    getReg .sr (setReg .sr 0xFFFF#16 State.reset) = 0x1FFF ∧
    getReg .mpc (setReg .mpc 0x1FF#16 State.reset) = 0xFF ∧
    getReg .br (setReg .br 0xFFFF#16 State.reset) = 0x0FFFF ∧
    getReg .br (setWideBr 0x3FFFF State.reset) = 0x1FFFF := by decide

theorem test_rf_set_flag :
    (hostSetFlag 12 true State.reset).map (·.sr) = some 0x1000#13 ∧
    (hostSetFlag 0 false { State.reset with sr := 0x1FFF#13 }).map (·.sr) = some 0x1FFE#13 ∧
    hostSetFlag 13 true State.reset = none := by decide

/-- R371: a later pair of the boot image wins. -/
theorem test_boot_image_order :
    bootCell [(3#8, 0x1111#16), (4#8, 5#16), (3#8, 0x2222#16)] 3 = 0x2222#16 ∧
    bootCell [(3#8, 0x1111#16)] 4 = 0#16 := by decide

/-! ## Text: disassembly, encode, loaders (V-MD..., V-EN..., V-LD...) -/

theorem test_disassemble :
    disassemble 0x0802#16 = "ISZ (002)".toList ∧ disassemble 0xE3FF#16 = "OUT F".toList ∧
    disassemble 0xFB00#16 = "DI".toList ∧ disassemble 0xC006#16 = "BR 006".toList := by decide +kernel

theorem test_en_words :
    encodeText "ISZ 2".toList = .ok 0x0002#16 ∧ encodeText "ADD (7FF)".toList = .ok 0x4FFF#16 ∧
    encodeText "OUT 5".toList = .ok 0xE305#16 ∧ encodeText "HLT".toList = .ok 0xF000#16 := by decide +kernel

theorem test_en_operand_errors :
    encodeText "FOO 1".toList = .error .unknownMnemonic ∧
    encodeText "ADD".toList = .error .missingOperand ∧
    encodeText "HLT 1".toList = .error .extraOperand ∧
    encodeText "ADD (10".toList = .error .unmatchedParen := by decide +kernel

theorem test_en_number_errors :
    encodeText "ADD 800".toList = .error .outOfRange ∧
    encodeText "OUT 10".toList = .error .outOfRange ∧
    encodeText "ADD 1G".toList = .error .malformedHex := by decide +kernel

theorem test_ld1_backward_cursor :
    symbolicImage 2048 "$pos 5\n$pos 3\n".toList
      = .error ⟨2, "$pos 3".toList, .cursorBackward⟩ := by decide +kernel

theorem test_ld3_undefined_label :
    symbolicImage 2048 "BR %nowhere\n".toList
      = .error ⟨1, "BR %nowhere".toList, .undefinedLabel⟩ := by decide +kernel

theorem test_ld4_raw_word :
    symbolicImage 2048 "1234 # raw\n".toList = .ok [(0, 0x1234#16)] := by decide +kernel

theorem test_ld5_past_the_bank :
    symbolicImage 2048 "$pos 7FF\nHLT\nNOP\n".toList
      = .error ⟨3, "NOP".toList, .outOfBank⟩ := by decide +kernel

theorem test_ld7_forward_reference :
    symbolicImage 2048 "BR %end\nNOP $end\n".toList
      = .ok [(0, 0xC002#16), (1, 0xF100#16)] := by decide +kernel

theorem test_ld6_cards :
    cardImage 2048 "010 +E305\n011 -F000\n".toList
      = .ok ⟨[(0x010, 0xE305#16), (0x011, 0xF000#16)], some 0x010⟩ := by decide +kernel

theorem test_boot_image_text :
    parseBootImage "0 4008\nFF 8300\n".toList
      = .ok [(0#8, 0x4008#16), (0xFF#8, 0x8300#16)] := by decide +kernel

/-! ## Macro instructions: microprograms in the style of P1 (R141) that implement the effect lines -/

/-- P1's words 00 to 05: the fetch, leaving the macro word in DR and CR and CC advanced. -/
def fetchWords : List Nat := [0x0300, 0x4001, 0x0311, 0x4004, 0x0100, 0x4003]

/-- P1's words 06 and 07: AR gets the address field. -/
def addressWords : List Nat := [0x0200, 0x4001]

/-- The pointer of an indirect operand to AR and CR (R140). -/
def pointerWords : List Nat := [0x0001, 0x0100, 0x4001, 0x4003]

/-- MICRO serves an instruction without an address: the fetch and the words of its effect. -/
def serves (ws : List Nat) (s : State) : State := placed (fetchWords ++ ws) s

/-- MICRO serves an address instruction. -/
def servesAddress (ws : List Nat) (s : State) : State := placed (fetchWords ++ addressWords ++ ws) s

/-- CC at 0x010, and 0x8005 in the cell 0x020. -/
def operandState : State := { State.reset with cc := 0x010#11, gen := [(0x020, 0x8005#16)] }

theorem test_isz : implements (.isz false 0x020#11)
    (servesAddress [0x0001, 0x0110, 0x4002, 0x0002, 0xDF0F, 0x0310, 0x4004, 0x4008] operandState)
      = true := by decide +kernel

/-- P6: ISZ of 0xFFFF stores 0 and skips. -/
theorem test_isz_skips :
    (execOf (.isz false 2#11)
      (servesAddress [0x0001, 0x0110, 0x4002, 0x0002, 0xDF0F, 0x0310, 0x4004, 0x4008]
        { State.reset with cc := 5#11, gen := [(2, 0xFFFF#16)] })).map (fun t => (t.gen, t.cc))
      = some ([(5, 0x0002#16)], 7#11) := by decide +kernel

theorem test_and : implements (.and false 0x020#11)
    (servesAddress [0x1121, 0x4035, 0x4008] { operandState with a := 0xFFFF#16, sr := 1#13 })
      = true := by decide +kernel

theorem test_jsr : implements (.jsr false 0x020#11)
    (servesAddress [0x0300, 0x4002, 0x3012, 0x4004, 0x4008] operandState) = true := by decide +kernel

/-- R145: an entry at 0x7FF continues at 0. -/
theorem test_jsr_wraps :
    (execOf (.jsr false 0x7FF#11)
      (servesAddress [0x0300, 0x4002, 0x3012, 0x4004, 0x4008] { State.reset with cc := 0x010#11 })).map
      (fun t => (t.gen, t.cc)) = some ([(0x010, 0x27FF#16), (0x7FF, 0x0011#16)], 0#11) := by
  decide +kernel

theorem test_mov : implements (.mov false 0x020#11)
    (servesAddress [0x1000, 0x4002, 0x0002, 0x4008] { operandState with a := 0x1234#16 })
      = true := by decide +kernel

/-- P1, with its trace's end. -/
theorem test_add_p1 :
    (execOf (.add false 0x020#11) (servesAddress [0x0001, 0x1100, 0x4075, 0x4008]
      { State.reset with cc := 0x010#11, gen := [(0x020, 5#16)], a := 3#16 })).map
      (fun t => (t.a, t.cc, t.ar, t.dr, t.br, t.sr, t.mpc))
      = some (8#16, 0x011#11, 0x020#11, 5#16, 8#17, 0#13, 0x0C#8) := by decide +kernel

theorem test_add_indirect : implements (.add true 0x030#11)
    (servesAddress (pointerWords ++ [0x1101, 0x4075, 0x4008])
      { State.reset with
        cc := 0x010#11, a := 0x8000#16, gen := [(0x020, 0x8005#16), (0x030, 0xF820#16)] })
      = true := by decide +kernel

theorem test_adc : implements (.adc false 0x020#11)
    (servesAddress [0x1101, 0x800B, 0x1110, 0x4075, 0x4008]
      { operandState with a := 0x7FFA#16, sr := 1#13 }) = true := by decide +kernel

/-- R149: equal operands give A = 0, C = 1, Z = 1. -/
theorem test_sub_equal :
    (execOf (.sub false 0x020#11)
      (servesAddress [0x1191, 0x4075, 0x4008] { operandState with a := 0x8005#16 })).map
      (fun t => (t.a, t.sr)) = some (0#16, 3#13) := by decide +kernel

theorem test_sub : implements (.sub false 0x020#11)
    (servesAddress [0x1191, 0x4075, 0x4008] operandState) = true := by decide +kernel

theorem test_bcs : implements (.bcs false 0x020#11)
    (servesAddress [0x800B, 0x0200, 0x4004, 0x4008] { operandState with sr := 1#13 })
      = true := by decide +kernel

theorem test_bpl : implements (.bpl true 0x020#11)
    (servesAddress (pointerWords ++ [0xC20F, 0x0200, 0x4004, 0x4008]) operandState)
      = true := by decide +kernel

theorem test_bmi : implements (.bmi false 0x020#11)
    (servesAddress [0x820B, 0x0200, 0x4004, 0x4008] { operandState with sr := 4#13 })
      = true := by decide +kernel

theorem test_beq_not_taken : implements (.beq false 0x020#11)
    (servesAddress [0x810B, 0x0200, 0x4004, 0x4008] operandState) = true := by decide +kernel

theorem test_br : implements (.br false 0x020#11)
    (servesAddress [0x0200, 0x4004, 0x4008] operandState) = true := by decide +kernel

theorem test_clf : implements (.clf 5#4) (serves [0x4100, 0x4008] (withDev5 0xAB true))
    = true := by decide +kernel

/-- P5, start (a). -/
theorem test_tsf_p5 :
    (execOf (.tsf 5#4) (placed [0x0200, 0x4002, 0x4100, 0x8600, 0x4008]
      { withDev5 0 true with cr := 0xE105#16, cc := 0x020#11 })).map
      (fun t => (t.br, t.dr, t.sr, t.cc, t.mpc))
      = some (0x0E105#17, 0xE105#16, 0x0040#13, 0x021#11, 5#8) := by decide +kernel

theorem test_tsf : implements (.tsf 5#4)
    (serves [0x4100, 0x4008] { withDev5 0 false with sr := 0x0040#13 }) = true := by decide +kernel

theorem test_in : implements (.input 5#4)
    (serves [0x4100, 0x4008] { withDev5 0xAB false with a := 0x1234#16 }) = true := by decide +kernel

/-- P3. -/
theorem test_out_p3 :
    (execOf (.output 7#4) (placed [0x0200, 0x4002, 0x4100, 0x1000, 0x4002, 0x0002, 0x4008]
      { State.reset with a := 0x00AB#16, cr := 0xE307#16, sr := 0x1000#13 })).map
      (fun t => (t.device 7#4, t.genWord 0#11, t.dr, t.br, t.sr, t.mpc))
      = some (⟨0xAB#8, false⟩, 0x00AB#16, 0x00AB#16, 0#17, 0#13, 7#8) := by decide +kernel

theorem test_out : implements (.output 5#4)
    (serves [0x4100, 0x4008] { State.reset with a := 0x12AB#16 }) = true := by decide +kernel

theorem test_hlt : implements .hlt (serves [0x4008] operandState) = true := by decide +kernel

theorem test_nop : implements .nop (serves [0x4008] operandState) = true := by decide +kernel

theorem test_cla : implements .cla
    (serves [0x0000, 0x4005, 0x4008] { operandState with a := 0x1234#16 }) = true := by decide +kernel

theorem test_clc : implements .clc (serves [0x4080, 0x4008] { operandState with sr := 1#13 })
    = true := by decide +kernel

theorem test_cma : implements .cma
    (serves [0x1040, 0x4005, 0x4008] { operandState with a := 0x1234#16 }) = true := by decide +kernel

theorem test_cmc : implements .cmc
    (serves [0xC009, 0x40C0, 0x4008, 0x4080, 0x4008] { operandState with sr := 1#13 })
      = true := by decide +kernel

theorem test_rol : implements .rol
    (serves [0x0008, 0x4045, 0x4008] { operandState with a := 0x8001#16 }) = true := by decide +kernel

theorem test_ror : implements .ror
    (serves [0x0004, 0x4045, 0x4008] { operandState with a := 0x0003#16, sr := 1#13 })
      = true := by decide +kernel

theorem test_inc : implements .inc
    (serves [0x1010, 0x4075, 0x4008] { operandState with a := 0xFFFF#16 }) = true := by decide +kernel

/-- R165: DEC of 0 gives 0xFFFF with C = 0. -/
theorem test_dec_zero :
    (execOf .dec (serves [0x1080, 0x4075, 0x4008] { State.reset with sr := 1#13 })).map
      (fun t => (t.a, t.sr)) = some (0xFFFF#16, 4#13) := by decide +kernel

theorem test_dec : implements .dec
    (serves [0x1080, 0x4075, 0x4008] { operandState with a := 1#16 }) = true := by decide +kernel

theorem test_ei : implements .ei (serves [0x4800, 0x4008] operandState) = true := by decide +kernel

theorem test_di : implements .di (serves [0x4400, 0x4008] { operandState with sr := 0x10#13 })
    = true := by decide +kernel

/-! ## Witnesses: for each statement with hypotheses, a state and operands that meet them -/

/-- A state whose MICRO holds the words of these micro-instructions from MPC on. -/
def holding (is : List Instr) : State := placed (is.map fun i => (encode i).toNat) State.reset

/-- Every microcode word is the halt word: a safe state. -/
def allHalt : State := { State.reset with micro := Vector.replicate 256 0x4008#16 }

theorem test_witness_levels : (Instr.mcIoEi ⟨.keep, .none, .none⟩).level = .micro ∧
    (Instr.tsf 15#4).level = .visible ∧ Mnemonic.ISZ.kind = .address ∧ Mnemonic.OUT.kind = .io ∧
    Mnemonic.DI.kind = .simple := by decide

theorem test_witness_rendering :
    (render (.isz true 0x7FF#11)).isSome = true ∧ (Instr.ror).level = .visible := by decide

/-- StepRunsDecodedInstruction, its two cases. -/
theorem test_witness_step_runs :
    (∃ s t : State, s.faultMark = none ∧
      exec (decodeMicro (s.microWord s.mpc)) { s with mcr := s.microWord s.mpc } = .next t ∧
      t.outcome = some .jumped) ∧
    (∃ s t : State, s.faultMark = none ∧
      exec (decodeMicro (s.microWord s.mpc)) { s with mcr := s.microWord s.mpc } = .next t ∧
      t.outcome = some .halted) :=
  ⟨⟨placed [0x8300] State.reset, _, rfl, rfl, by decide⟩,
   ⟨placed [0x4008] State.reset, _, rfl, rfl, by decide⟩⟩

/-- MpcAfterStepByCase: CTRL with true and false condition, a well-formed word at 0xFF, a faulting word. -/
theorem test_witness_mpc_after_step :
    (let s : State := placed [0x8310] State.reset;
      s.faultMark = none ∧ decodeMicro (s.microWord s.mpc) = .mcCtrl false .sr 3#4 0x10#8) ∧
    (let s : State := placed [0xC310] State.reset;
      s.faultMark = none ∧ decodeMicro (s.microWord s.mpc) = .mcCtrl true .sr 3#4 0x10#8) ∧
    (let s : State := { allHalt with mpc := 0xFF#8 };
      s.faultMark = none ∧ (decodeMicro (s.microWord s.mpc)).wellFormed = true ∧
        decodeMicro (s.microWord s.mpc)
          = .mcHalt ⟨false, false, false, false⟩ ⟨.keep, .none, .none⟩) ∧
    (let s : State := placed [0x0003] State.reset;
      s.faultMark = none ∧ (decodeMicro (s.microWord s.mpc)).wellFormed = false) := by
  decide +kernel

theorem test_witness_faulting_step :
    (let s : State := placed [0x000C] State.reset;
      s.faultMark = none ∧ (decodeMicro (s.microWord s.mpc)).wellFormed = false) ∧
    ({ State.reset with faultMark := some (.unlistedField 0x000C#16 0#8) } : State).faultMark
      = some (.unlistedField 0x000C#16 0#8) := by decide +kernel

theorem test_witness_mark_set :
    (∃ t, step (placed [0x0003] State.reset) = .next t ∧ t.outcome = some .fault) ∧
    (∃ t, step (placed [0x4008] State.reset) = .next t ∧ t.outcome = some .halted) :=
  ⟨⟨_, rfl, by decide⟩, ⟨_, rfl, by decide⟩⟩

/-- Canonical memories: empty, with the first and with the last cell listed. -/
theorem test_witness_gen_wf : genWf State.reset.gen = true ∧ genWf [(0, 1#16)] = true ∧
    genWf [(0, 1#16), (0x7FF, 0xFFFF#16)] = true ∧ genWf [(0x800, 1#16)] = false ∧
    genWf [(5, 0#16)] = false := by decide

/-- Op0Frame: a form that reads, one that writes, one that shifts, one that faults. -/
theorem test_witness_op0_frame :
    (∃ t, exec (.mcOp0 .none .none (.listed .none) (.listed .sum) (.listed .none) (.listed .write))
      State.reset = .next t) ∧
    (∃ t, exec (.mcOp0 .none .none (.listed .none) (.listed .sum) (.listed .none) (.listed .read))
      State.reset = .next t) ∧
    (∃ t, exec (.mcOp0 .none .none .unlisted .unlisted (.listed .left) (.listed .read))
      State.reset = .next t) ∧
    (∃ t, exec (.mcOp0 .none .none .unlisted (.listed .sum) (.listed .none) (.listed .none))
      State.reset = .next t) ∧ (1#11 : GenAddr) ≠ State.reset.ar :=
  ⟨⟨_, rfl⟩, ⟨_, rfl⟩, ⟨_, rfl⟩, ⟨_, rfl⟩, by decide⟩

/-- The hypothesis of Op0UnlistedFieldFaults. -/
def consultsUnlisted (inv : Code Inv) (op : Code AluOp) (shift : Code Shift) (mem : Code Mem) : Prop :=
  shift = .unlisted ∨ (shift = .listed .none ∧ (mem = .unlisted ∨ inv = .unlisted ∨ op = .unlisted))

theorem test_witness_op0_unlisted :
    consultsUnlisted (.listed .none) (.listed .sum) .unlisted (.listed .none) ∧
    consultsUnlisted (.listed .none) (.listed .sum) (.listed .none) .unlisted ∧
    consultsUnlisted .unlisted (.listed .sum) (.listed .none) (.listed .none) ∧
    consultsUnlisted (.listed .none) .unlisted (.listed .none) (.listed .none) := by
  unfold consultsUnlisted
  decide

theorem test_witness_halt :
    (placed [0x7FFF] State.reset).faultMark = none ∧
    decodeMicro ((placed [0x7FFF] State.reset).microWord (placed [0x7FFF] State.reset).mpc)
      = .mcHalt ⟨true, true, true, true⟩ ⟨.set, .both, .all⟩ := by decide

theorem test_witness_status_frame :
    ∃ t, exec (.mcFlagsWb ⟨.keep, .none, .all⟩) State.reset = .next t := ⟨_, rfl⟩

theorem test_witness_ignored_connect :
    ({ State.reset with dr := 0xE305#16, cr := 0xE304#16 } : State).dr ≠ 0xE304#16 := by decide

/-- The four cases of the protocol, at their boundary words. -/
theorem test_witness_connect :
    (let s : State := { State.reset with dr := 0xFFFF#16, cr := 0xFFFF#16 };
      s.dr = s.cr ∧ ioSelector s = 3) ∧
    (let s : State := { State.reset with dr := 0x0200#16, cr := 0x0200#16 };
      s.dr = s.cr ∧ ioSelector s = 2) ∧
    (let s : State := { State.reset with dr := 0xE1FF#16, cr := 0xE1FF#16 };
      s.dr = s.cr ∧ ioSelector s = 1) ∧
    (State.reset.dr = State.reset.cr ∧ ioSelector State.reset = 0) := by decide

theorem test_witness_missing_bits :
    13 ≤ (13#4 : BitVec 4).toNat ∧ 13 ≤ (15#4 : BitVec 4).toNat := by decide

/-- A macro step of two micro-steps, on the word of CLC in the cell 0. -/
theorem test_witness_halts_in :
    ∃ t, HaltsIn 2 ((placed [0x4080, 0x4008] State.reset).setGenWord 0#11 (encode .clc)) t :=
  ⟨_, _, rfl, .inr ⟨by decide, by decide, _, rfl, .inl ⟨by decide, rfl, rfl⟩⟩⟩

/-- MacroInstructionAnswersEndOfRun: a run that halts and one that faults. -/
theorem test_witness_macro_answers :
    (execOf .clc (placed [0x4080, 0x4008] State.reset)).map (·.outcome) = some (some .halted) ∧
    (execOf .clc (placed [0x4080, 0x0003] State.reset)).map (·.outcome) = some (some .fault) := by
  decide +kernel

/-- A connect word and a halt word, with DR and CR at a given word. -/
def atConnect (w : Word) : State := { placed [0x4100, 0x4008] State.reset with dr := w, cr := w }

theorem test_witness_at_connect (w : Word) : AtConnect w (atConnect w) :=
  let s := placed [0x4100, 0x4008] State.reset
  have hc : decodeMicro (s.microWord s.mpc) = .mcIoConn false false false ⟨.keep, .none, .none⟩ := by
    decide +kernel
  have hh : decodeMicro (s.microWord (s.mpc + 1#8)) = haltWord := by decide +kernel
  ⟨rfl, rfl, rfl, ⟨_, hc⟩, _, _, hh⟩

theorem test_witness_macro_arithmetic :
    Holds [aluWord .a .dr .none .and .read, .mcFlagsWb ⟨.keep, .both, .a⟩, haltWord]
      (holding [aluWord .a .dr .none .and .read, .mcFlagsWb ⟨.keep, .both, .a⟩, haltWord]) ∧
    Holds [aluWord .a .dr .none .sum .read, .mcFlagsWb ⟨.fromBuffer, .both, .a⟩, haltWord]
      (holding [aluWord .a .dr .none .sum .read, .mcFlagsWb ⟨.fromBuffer, .both, .a⟩, haltWord]) ∧
    Holds [aluWord .a .dr .right .sumPlusOne .read, .mcFlagsWb ⟨.fromBuffer, .both, .a⟩, haltWord]
      (holding [aluWord .a .dr .right .sumPlusOne .read, .mcFlagsWb ⟨.fromBuffer, .both, .a⟩,
        haltWord]) ∧
    Holds [aluWord .a .none .none .sumPlusOne .none, .mcFlagsWb ⟨.fromBuffer, .both, .a⟩, haltWord]
      (holding [aluWord .a .none .none .sumPlusOne .none, .mcFlagsWb ⟨.fromBuffer, .both, .a⟩,
        haltWord]) ∧
    Holds [aluWord .a .none .right .sum .none, .mcFlagsWb ⟨.fromBuffer, .both, .a⟩, haltWord]
      (holding [aluWord .a .none .right .sum .none, .mcFlagsWb ⟨.fromBuffer, .both, .a⟩,
        haltWord]) := by
  unfold Holds
  decide +kernel

/-- The words of ADC, which jump past the second addition. -/
def adcWords (target : MicroAddr) : List Instr :=
  [aluWord .a .dr .none .sum .read, .mcCtrl false .sr 0#4 target,
    aluWord .a .dr .none .sumPlusOne .none, .mcFlagsWb ⟨.fromBuffer, .both, .a⟩, haltWord]

theorem test_witness_macro_adc :
    Holds (adcWords ((holding (adcWords 3#8)).mpc + 3#8)) (holding (adcWords 3#8)) := by
  unfold Holds
  decide +kernel

theorem test_witness_macro_accumulator :
    Holds [haltWord] (holding [haltWord]) ∧
    Holds [aluWord .none .none .none .sum .none, .mcFlagsWb ⟨.keep, .none, .a⟩, haltWord]
      (holding [aluWord .none .none .none .sum .none, .mcFlagsWb ⟨.keep, .none, .a⟩, haltWord]) ∧
    Holds [.mcFlagsWb ⟨.clear, .none, .none⟩, haltWord]
      (holding [.mcFlagsWb ⟨.clear, .none, .none⟩, haltWord]) ∧
    Holds [aluWord .a .none .left .sum .none, .mcFlagsWb ⟨.keep, .none, .a⟩, haltWord]
      (holding [aluWord .a .none .left .sum .none, .mcFlagsWb ⟨.keep, .none, .a⟩, haltWord]) := by
  unfold Holds
  decide +kernel

theorem test_witness_macro_cmc_rotates :
    Holds [.mcCtrl true .sr 0#4 3#8, .mcFlagsWb ⟨.set, .none, .none⟩, haltWord,
        .mcFlagsWb ⟨.clear, .none, .none⟩, haltWord]
      (holding [.mcCtrl true .sr 0#4 3#8, .mcFlagsWb ⟨.set, .none, .none⟩, haltWord,
        .mcFlagsWb ⟨.clear, .none, .none⟩, haltWord]) ∧
    Holds [shiftWord .left, .mcFlagsWb ⟨.fromBuffer, .none, .a⟩, haltWord]
      (holding [shiftWord .left, .mcFlagsWb ⟨.fromBuffer, .none, .a⟩, haltWord]) ∧
    Holds [shiftWord .right, .mcFlagsWb ⟨.fromBuffer, .none, .a⟩, haltWord]
      (holding [shiftWord .right, .mcFlagsWb ⟨.fromBuffer, .none, .a⟩, haltWord]) := by
  unfold Holds
  decide +kernel

theorem test_witness_macro_interrupts :
    Holds [.mcIoEi ⟨.keep, .none, .none⟩, haltWord]
      (holding [.mcIoEi ⟨.keep, .none, .none⟩, haltWord]) ∧
    Holds [.mcIoDi false ⟨.keep, .none, .none⟩, haltWord]
      (holding [.mcIoDi false ⟨.keep, .none, .none⟩, haltWord]) := by
  unfold Holds
  decide +kernel

/-- The words of a conditional branch: a jump past the write-back of CC. -/
def branchWords (skipIf : Bool) (bit : BitVec 4) (target : MicroAddr) : List Instr :=
  [.mcCtrl skipIf .sr bit target, aluWord .cr .none .none .sum .none,
    .mcFlagsWb ⟨.keep, .none, .cc⟩, haltWord]

theorem test_witness_macro_branches :
    Holds [aluWord .cr .none .none .sum .none, .mcFlagsWb ⟨.keep, .none, .cc⟩, haltWord]
      (holding [aluWord .cr .none .none .sum .none, .mcFlagsWb ⟨.keep, .none, .cc⟩, haltWord]) ∧
    Holds (branchWords false 0#4 3#8) (holding (branchWords false 0#4 3#8)) ∧
    Holds (branchWords true 2#4 3#8) (holding (branchWords true 2#4 3#8)) ∧
    Holds (branchWords false 2#4 3#8) (holding (branchWords false 2#4 3#8)) ∧
    Holds (branchWords false 1#4 3#8) (holding (branchWords false 1#4 3#8)) := by
  unfold Holds
  decide +kernel

/-- The words of ISZ, which jump past the skip. -/
def iszWords (target : MicroAddr) : List Instr :=
  [aluWord .none .none .none .sum .read, aluWord .none .dr .none .sumPlusOne .none,
    .mcFlagsWb ⟨.keep, .none, .dr⟩, aluWord .none .none .none .sum .write,
    .mcCtrl true .dr 15#4 target, aluWord .none .cc .none .sumPlusOne .none,
    .mcFlagsWb ⟨.keep, .none, .cc⟩, haltWord]

theorem test_witness_macro_stores :
    Holds (iszWords 7#8) (holding (iszWords 7#8)) ∧
    Holds [aluWord .none .cc .none .sum .none, .mcFlagsWb ⟨.keep, .none, .dr⟩,
        aluWord .cr .none .none .sumPlusOne .write, .mcFlagsWb ⟨.keep, .none, .cc⟩, haltWord]
      (holding [aluWord .none .cc .none .sum .none, .mcFlagsWb ⟨.keep, .none, .dr⟩,
        aluWord .cr .none .none .sumPlusOne .write, .mcFlagsWb ⟨.keep, .none, .cc⟩, haltWord]) ∧
    Holds [aluWord .a .none .none .sum .none, .mcFlagsWb ⟨.keep, .none, .dr⟩,
        aluWord .none .none .none .sum .write, haltWord]
      (holding [aluWord .a .none .none .sum .none, .mcFlagsWb ⟨.keep, .none, .dr⟩,
        aluWord .none .none .none .sum .write, haltWord]) := by
  unfold Holds
  decide +kernel

theorem test_witness_boot_image :
    (∀ p ∈ [((5#8 : MicroAddr), (1#16 : Word))], p.1 ≠ 4#8) ∧
    (∀ p ∈ ([] : List (MicroAddr × Word)), p.1 ≠ 4#8) := by simp

/-- The invariant, before a step that answers a state. -/
theorem test_witness_invariant :
    Invariant (placed [0x4008] State.reset) ∧
    ∃ t, step (placed [0x4008] State.reset) = .next t :=
  ⟨⟨rfl, Nat.zero_le _⟩, _, rfl⟩

/-- The invariant, before a macro instruction that answers a state. -/
theorem test_witness_invariant_macro :
    Invariant (placed [0x4008] State.reset) ∧
    (execOf .nop (placed [0x4008] State.reset)).isSome = true :=
  ⟨⟨rfl, Nat.zero_le _⟩, by decide +kernel⟩

/-- Every cell of a bank of one word. -/
theorem microLookup_replicate (w : Word) (i : MicroAddr) :
    microLookup (Vector.replicate 256 w) i = w := by simp [microLookup]

theorem test_witness_safe : Safe allHalt := by
  refine ⟨rfl, fun i => ?_⟩
  have h : allHalt.microWord i = 0x4008#16 := microLookup_replicate _ i
  rw [h]
  decide

theorem test_witness_frames : (∃ t, exec (.mcHalt ⟨true, true, true, true⟩ ⟨.keep, .none, .none⟩)
      State.reset = .next t) ∧
    (∃ t, step (placed [0x4100] State.reset) = .next t) ∧
    State.reset.flag .ioActive = false ∧
    ((withDev5 1 true).device 5#4).ready = true :=
  ⟨⟨_, rfl⟩, ⟨_, rfl⟩, by decide, by decide⟩

/-- DiagnosticsDoNotInfluenceSteps, from states with different MCR and log. -/
theorem test_witness_diagnostics :
    SameButDiagnostics (placed [0x4008] State.reset)
      { placed [0x4008] State.reset with mcr := 5#16, log := [.hostMessage []] } ∧
    ∃ t, step (placed [0x4008] State.reset) = .next t :=
  ⟨rfl, _, rfl⟩

/-- The host's cell port, at the last cell of each bank and the first index past it. -/
theorem test_witness_cell_port :
    (hostSetCell .gen 2047 0x1FFFF State.reset).map (·.gen) = some [(2047, 0xFFFF#16)] ∧
    (hostSetCell .micro 255 1 State.reset).isSome = true ∧
    hostSetCell .gen 2048 1 State.reset = none ∧
    hostSetCell .micro 256 1 State.reset = none := by decide +kernel

/-- WideAndFlagPorts and RegisterSetStoresMasked, at the boundary. -/
theorem test_witness_flag_port : 12 < 13 ∧ (hostSetFlag 12 true State.reset).isSome = true ∧
    hostSetFlag 13 true State.reset = none ∧ Reg.cc ≠ Reg.ar := by decide

theorem test_witness_symbolic_load :
    (loadSymbolic .gen "1234 # raw\n".toList State.reset).toOption.isSome = true := by decide +kernel

/-- R322: of several `+` lines the last gives CC, and a later card for an address wins. -/
theorem test_card_last_start :
    (loadCard .gen "010 +1\n011 +2\n010 -3\n".toList State.reset).toOption.map
      (fun u => (u.cc, u.gen)) = some (0x011#11, [(0x010, 3#16), (0x011, 2#16)]) := by
  decide +kernel

/-- CardLoadSetsCommandCounter: cards with a start and a blank line between them, at the last cell of general
memory and the greatest value. -/
theorem test_witness_card_load :
    genWf State.reset.gen = true ∧
    CardsOf (linesOf "010 +E305\n\n7FF -FFFF".toList) [⟨0x010, true, 0xE305⟩, ⟨0x7FF, false, 0xFFFF⟩] ∧
    ∀ c ∈ [Card.mk 0x010 true 0xE305, ⟨0x7FF, false, 0xFFFF⟩], c.inRange .gen := by
  have h : linesOf "010 +E305\n\n7FF -FFFF".toList =
      [⟨1, "010 +E305".toList⟩, ⟨2, []⟩, ⟨3, "7FF -FFFF".toList⟩] := by decide +kernel
  rw [h]
  exact ⟨rfl,
    .inr ⟨_, _, rfl, ⟨"010".toList, "E305".toList, by decide +kernel⟩, .inl ⟨rfl,
      .inr ⟨_, _, rfl, ⟨"7FF".toList, "FFFF".toList, by decide +kernel⟩, rfl⟩⟩⟩,
    by simp [Card.inRange, Bank.size, Config.genWords]⟩

/-- CardLoadSetsCommandCounter: no card has a plus, and an empty text has no card at all. -/
theorem test_witness_card_load_no_start :
    CardsOf (linesOf "FF -1".toList) [⟨0xFF, false, 1⟩] ∧ CardsOf (linesOf []) [] ∧
    (Card.mk 0xFF false 1).inRange .micro := by
  have h : linesOf "FF -1".toList = [⟨1, "FF -1".toList⟩] := by decide +kernel
  rw [h]
  exact ⟨.inr ⟨_, _, rfl, ⟨"FF".toList, "1".toList, by decide +kernel⟩, rfl⟩, .inl ⟨rfl, rfl⟩,
    by simp [Card.inRange, Bank.size, Config.microWords]⟩

/-- CardLoadSetsCommandCounter: loads that succeed, for its first clause. -/
theorem test_witness_card_load_succeeds :
    (loadCard .gen "7FF +1\n".toList State.reset).toOption.map (·.cc) = some 0x7FF#11 ∧
    (loadCard .micro "FF -1\n".toList State.reset).toOption.map (·.cc) = some 0#11 := by
  decide +kernel

/-- ContinuousRunStops: the lever down, a halt word and a word that is not one with the lever up. -/
theorem test_witness_continuous_run :
    State.reset.flag .runLever = false ∧
    (let s : State := { placed [0x4008] State.reset with sr := 0x0080#13 };
      s.flag .runLever = true ∧ (nextOf (step s)).map (·.outcome) = some (some .halted)) ∧
    (let s : State := { placed [0x0000] State.reset with sr := 0x0080#13 };
      s.flag .runLever = true ∧
        (nextOf (step s)).map (fun t => (t.outcome, t.faultMark))
          = some (some .success, none)) := by decide

end Sys2Proof.Tests
end

/-! PROOF. The two decoders answer on two levels (spec/00_scope.md R2): every term the micro decoder reads
is classified as a micro row, and every row the macro scan can select is a macro row. -/

namespace Sys2Proof

/-- Each of the eight branches of `classify` (OP0, CTRL and the OP1 paths of R223) builds a micro row. -/
@[simp] theorem level_classify (t : MicroTerm) : (classify t).level = .micro := by
  fun_cases classify t <;> rfl

/-- Every mnemonic of the descriptor table (R131) names a macro row, whatever its operands are. -/
@[simp] theorem level_instrOf (m : Mnemonic) (indirect : Bool) (addr : GenAddr) (dev : DevIndex) :
    (instrOf m indirect addr dev).level = .visible := by
  cases m <;> rfl

/-- What the sequencer runs (R260) is a micro-instruction. -/
@[simp] theorem level_decodeMicro (w : Word) : (decodeMicro w).level = .micro :=
  level_classify (decodeTerm w)

/-- What the macro decoder answers (R130) is a macro instruction. -/
@[simp] theorem level_decodeMacro (w : Word) : (decodeMacro w).level = .visible :=
  level_instrOf (selectRow w) _ _ _

/-- Settles O9: each decoder is a classification of its own level's rows, for all words. -/
theorem engineDecodesOnlyMicro : Obligations.EngineDecodesOnlyMicro := by
  intro w
  exact ⟨level_decodeMicro w, level_decodeMacro w⟩

end Sys2Proof

/-! PROOF. The host's register ports (spec/10_state.md R32 to R34): a register read after a set of the
same and of another register, the wide set of BR, and the port of one SR bit. -/

namespace Sys2Proof

open Machine Spec

/-- A set register reads back the value under its mask (R32); BR's bit 16 is 0 (D36). -/
theorem getReg_setReg_same (r : Reg) (v : Word) (s : State) :
    getReg r (setReg r v s) = v.toNat % 2 ^ regWidth r := by
  have hv : v.toNat < 2 ^ 16 := v.isLt
  cases r
  case a | cr | dr | mcr => exact (Nat.mod_eq_of_lt hv).symm
  case cc | ar | mpc | sr | br => exact BitVec.toNat_setWidth _ v

/-- A set of one register leaves every other one (R32). -/
theorem getReg_setReg_ne {q r : Reg} (hq : q ≠ r) (v : Word) (s : State) :
    getReg q (setReg r v s) = getReg q s := by
  cases r <;> cases q <;> try contradiction
  all_goals rfl

/-- A set of a register changes the nine registers at most (R32). -/
theorem setReg_frame (r : Reg) (v : Word) (s : State) :
    (setReg r v s).gen = s.gen ∧ (setReg r v s).micro = s.micro ∧
      (setReg r v s).devices = s.devices ∧ (setReg r v s).log = s.log ∧
      (setReg r v s).faultMark = s.faultMark := by
  cases r <;> exact ⟨rfl, rfl, rfl, rfl, rfl⟩

/-- Settles O53: the read after a set, of the same and of another register, and the frame. -/
theorem registerSetStoresMasked : Obligations.RegisterSetStoresMasked := by
  intro r v s
  exact ⟨getReg_setReg_same r v s, fun _ hq => getReg_setReg_ne hq v s, setReg_frame r v s⟩

/-- The flag port on one of the 13 SR bits reads back what was set and every other bit as before
(R34). -/
theorem hostFlag_setSr_statusWithBit {i j : Nat} (hi : i < 13) (hj : j < 13) (b : Bool) (s : State) :
    hostFlag j (s.setSr (statusWithBit s.sr i b)) = if j = i then some b else hostFlag j s := by
  unfold hostFlag
  rw [if_pos hj, if_pos hj, State.setSr_sr, getLsbD_statusWithBit s.sr j b hi]
  split <;> rfl

/-- Settles O54: the 17-bit set of BR, and the flag port inside and outside the 13 bits of SR. -/
theorem wideAndFlagPorts : Obligations.WideAndFlagPorts := by
  refine ⟨fun v s => ⟨BitVec.toNat_ofNat v 17, rfl⟩, fun i b s => ?_⟩
  split
  · next hi =>
    exact ⟨_, if_pos hi, rfl, fun j hj => hostFlag_setSr_statusWithBit hi hj b s⟩
  · next hi => exact ⟨if_neg hi, if_neg hi⟩

end Sys2Proof

/-! PROOF. The step and every instruction over the three decoded shapes of R95: a micro row runs its
term (R260), a macro row runs a macro step on its placed word (R137), so what the terms and the small
updates around them keep is kept by every instruction and by every step. -/

namespace Sys2Proof.Machine

/-- The row of a decoded term means what the term means in the three-shape sequencer (R223, R260). -/
theorem exec_classify (m : MicroTerm) (s : State) : exec (classify m) s = .next (runTerm m s) := by
  fun_cases classify m <;> rfl

/-- The step of the rows is micro_step over the three shapes (R260). -/
theorem step_eq_microStep (s : State) : step s = microStep s := by
  unfold step microStep decodeMicro
  cases s.faultMark with
  | some f => rfl
  | none => simp only [exec_classify]

/-- A micro row is its term's path; a macro row is one macro step on its own word (R2, R137). -/
theorem exec_cases (i : Instr) (s : State) :
    (∃ m, exec i s = .next (runTerm m s)) ∨ exec i s = runMacroWord (encode i) s := by
  cases i
  case mcOp0 left right inv op shift mem => exact .inl ⟨.op0 left right inv op shift mem, rfl⟩
  case mcHalt io st => exact .inl ⟨.op1 io true st, rfl⟩
  case mcIoConn rdy di ei st => exact .inl ⟨.op1 ⟨true, rdy, di, ei⟩ false st, rfl⟩
  case mcIoRdy di ei st => exact .inl ⟨.op1 ⟨false, true, di, ei⟩ false st, rfl⟩
  case mcIoDi ei st => exact .inl ⟨.op1 ⟨false, false, true, ei⟩ false st, rfl⟩
  case mcIoEi st => exact .inl ⟨.op1 ⟨false, false, false, true⟩ false st, rfl⟩
  case mcFlagsWb st => exact .inl ⟨.op1 ⟨false, false, false, false⟩ false st, rfl⟩
  case mcCtrl cmp reg bit target => exact .inl ⟨.ctrl cmp reg bit target, rfl⟩
  all_goals exact .inr rfl

/-- A property of states that everything a step or an instruction is made of keeps: the three decoded
shapes, the writes of MCR and MPC around them (R260), and a macro word placed in general memory. -/
structure MicroClosed (P : State → Prop) : Prop where
  runTerm : ∀ m s, P s → P (runTerm m s)
  setMcr : ∀ w s, P s → P (s.setMcr w)
  setMpc : ∀ x s, P s → P (s.setMpc x)
  setGenWord : ∀ x w s, P s → P (s.setGenWord x w)

namespace MicroClosed

variable {P : State → Prop} (closed : MicroClosed P) {s t : State}
include closed

/-- The end of a micro-step keeps it (R262). -/
theorem advance (hs : P s) : P (advance s) := by
  rcases advance_cases s with ⟨_, he⟩ | ⟨_, _, he⟩
  · rw [he]; exact hs
  · rw [he]; exact closed.setMpc _ s hs

/-- A micro-step keeps it (R260). -/
theorem microStep (hs : P s) (h : microStep s = .next t) : P t := by
  rcases microStep_cases s with ⟨f, _, he⟩ | ⟨_, he⟩
  · rw [he] at h; cases h
  · rw [he] at h
    cases h
    exact closed.advance (closed.runTerm _ _ (closed.setMcr _ s hs))

/-- The step keeps it. -/
theorem step (hs : P s) (h : step s = .next t) : P t :=
  closed.microStep hs (step_eq_microStep s ▸ h)

/-- Every instruction keeps it, a macro instruction by the induction over its run (R263). -/
theorem exec {i : Instr} (hs : P s) (h : exec i s = .next t) : P t := by
  rcases exec_cases i s with ⟨m, he⟩ | he
  · rw [he] at h
    cases h
    exact closed.runTerm m s hs
  · rw [he] at h
    exact runMacro_induct (fun _ _ => closed.microStep) _ _ t (closed.setGenWord _ _ s hs) h

end MicroClosed

end Sys2Proof.Machine

/-! PROOF. The SR bits of the host (spec/10_state.md R36, R39, R41, R43 to R46): outside C, Z, N, the
interrupt mask and the device-ready bit, the core's only write of SR is the clearing of bit 12 at the
end of the I/O protocol (R285). -/

namespace Sys2Proof.Machine

/-- The flags the core writes with a value either way (R37, R38, R40, R42). -/
def coreFlags : List Flag := [.carry, .zero, .negative, .interruptsAllowed, .deviceReady]

/-- A flag is kept, or it is the I/O-active bit and has been cleared (R46). -/
def KeptOrCleared (g : Flag) (s t : State) : Prop :=
  t.flag g = s.flag g ∨ g = .ioActive ∧ t.flag g = false

theorem KeptOrCleared.trans {g : Flag} {s t u : State} (h : KeptOrCleared g s t)
    (h' : KeptOrCleared g t u) : KeptOrCleared g s u := by
  rcases h' with he | hc
  · exact h.imp he.trans (And.imp_right he.trans)
  · exact .inr hc

@[simp] theorem afterAccess_flag (m : Mem) (s : State) (g : Flag) :
    (afterAccess m s).flag g = s.flag g := by
  cases m <;> rfl

@[simp] theorem writeBack_flag (w : WbSel) (v : Word) (s : State) (g : Flag) :
    (writeBack w v s).flag g = s.flag g := by
  cases w <;> rfl

/-- OP0 writes no flag (R190). -/
theorem aluPath_flag (left : LeftSel) (right : RightSel) (inv : Code Inv) (op : Code AluOp)
    (shift : Code Shift) (mem : Code Mem) (s : State) (g : Flag) :
    (aluPath left right inv op shift mem s).flag g = s.flag g := by
  rcases aluPath_cases left right inv op shift mem s with ⟨v, he⟩ | ⟨m, v, _, he⟩ | ⟨_, he⟩ <;>
    simp [he]

/-- CTRL writes no flag (R250). -/
theorem controlPath_flag (cmp : Bool) (reg : CtrlReg) (bit : BitVec 4) (target : MicroAddr)
    (s : State) (g : Flag) : (controlPath cmp reg bit target s).flag g = s.flag g := by
  unfold controlPath
  split <;> rfl

/-- The status path writes C, Z and N at most (R220, R224, R225). -/
theorem statusPath_flag {g : Flag} (hg : g ∉ coreFlags) (st : StatusFields) (s : State) :
    (statusPath st s).flag g = s.flag g := by
  simp only [coreFlags, List.mem_cons, not_or] at hg
  simp [statusPath, flagsUpdated, hg]

/-- The case of the I/O protocol writes the device-ready bit at most (R280 to R284). -/
theorem ioCase_flag {g : Flag} (hg : g ∉ coreFlags) (s : State) : (ioCase s).flag g = s.flag g := by
  have hne : g ≠ .deviceReady := by rintro rfl; exact hg (by decide)
  rcases ioCase_cases s with ⟨_, he⟩ | ⟨_, _, he⟩ | ⟨_, _, he⟩ | ⟨_, _, he⟩ <;> rw [he]
  case inr.inr.inl =>
    unfold ioTest
    split <;> simp [hne]
  all_goals rfl

/-- Connect clears the I/O-active bit or leaves the host's bits alone (R230, R285). -/
theorem keptOrCleared_connect {g : Flag} (hg : g ∉ coreFlags) (s : State) :
    KeptOrCleared g s (connect s) := by
  rcases connect_cases s with ⟨_, he⟩ | ⟨_, he⟩ <;> rw [he]
  · by_cases hio : g = .ioActive
    · exact .inr ⟨hio, by simp [ioProtocol, hio]⟩
    · exact .inl (by simp [ioProtocol, hio, ioCase_flag hg])
  · exact .inl rfl

/-- The I/O path does to the host's bits what connect does, if it is set (R227). -/
theorem keptOrCleared_ioPath {g : Flag} (hg : g ∉ coreFlags) (conn rdy di ei : Bool) (s : State) :
    KeptOrCleared g s (ioPath conn rdy di ei s) := by
  have hne : g ≠ .interruptsAllowed := by rintro rfl; exact hg (by decide)
  unfold KeptOrCleared
  rw [flag_ioPath, if_neg hne]
  cases conn
  · exact .inl rfl
  · exact keptOrCleared_connect hg s

/-- No decoded word writes a host's bit but to clear bit 12 (R285). -/
theorem keptOrCleared_runTerm {g : Flag} (hg : g ∉ coreFlags) (m : MicroTerm) (s : State) :
    KeptOrCleared g s (runTerm m s) := by
  cases m with
  | op0 left right inv op shift mem => exact .inl (aluPath_flag left right inv op shift mem s g)
  | ctrl cmp reg bit target => exact .inl (controlPath_flag cmp reg bit target s g)
  | op1 io halt st =>
    show KeptOrCleared g s (op1Path io halt st s)
    unfold op1Path
    split_ifs
    · exact .inl rfl
    · exact keptOrCleared_ioPath hg ..
    · exact .inl (statusPath_flag hg st s)

/-- Along a run from `s` a host's bit stays kept or cleared. -/
theorem microClosed_keptOrCleared {g : Flag} (hg : g ∉ coreFlags) (s : State) :
    MicroClosed (KeptOrCleared g s) where
  runTerm m _ h := h.trans (keptOrCleared_runTerm hg m _)
  setMcr _ _ h := h
  setMpc _ _ h := h
  setGenWord _ _ _ h := h

/-- The two claims about the host's bits, from the one about each of them. -/
theorem hostFlagsKept_of_keptOrCleared {s t : State}
    (h : ∀ g, g ∉ coreFlags → KeptOrCleared g s t) :
    HostFlagsKept s t ∧ (s.flag .ioActive = false → t.flag .ioActive = false) := by
  have kept (g : Flag) (hg : g ∉ coreFlags) (hio : g ≠ .ioActive) : t.flag g = s.flag g :=
    (h g hg).resolve_right fun hc => hio hc.1
  constructor
  · refine ⟨kept .constantZero ?_ ?_, kept .interruptPending ?_ ?_, kept .runLever ?_ ?_,
      kept .programMode ?_ ?_, kept .inert9 ?_ ?_, kept .inert10 ?_ ?_,
      kept .executeByTick ?_ ?_⟩ <;> decide
  · intro hs
    exact (h .ioActive (by decide)).elim (·.trans hs) And.right

end Sys2Proof.Machine

namespace Sys2Proof

open Machine

/-- Settles O50: every host's bit is kept, and bit 12 kept or cleared, by whatever is made of decoded
words. -/
theorem hostFlagsAreNeverWritten : Obligations.HostFlagsAreNeverWritten := by
  have start (g : Flag) (s : State) : KeptOrCleared g s s := .inl rfl
  constructor
  · intro i s t h
    exact hostFlagsKept_of_keptOrCleared fun g hg =>
      (microClosed_keptOrCleared hg s).exec (start g s) h
  · intro s t h
    exact hostFlagsKept_of_keptOrCleared fun g hg =>
      (microClosed_keptOrCleared hg s).step (start g s) h

end Sys2Proof

/-! PROOF. Noninterference of the diagnostics (spec/10_state.md R27, R49): each operation on a state
with another log and another recorded outcome is the operation on the state, with that log and outcome
put back; the step overwrites MCR before, and the outcome after, anything could read them. -/

namespace Sys2Proof.Machine

/-- The state with another log and another recorded outcome (R350, log 1). -/
def State.withDiagnostics (s : State) (l : List LogEntry) (o : Option StepOutcome) : State :=
  { s with log := l, outcome := o }

section

variable (s : State) (l : List LogEntry) (o : Option StepOutcome)

@[simp] theorem State.withDiagnostics_dr : (s.withDiagnostics l o).dr = s.dr := rfl
@[simp] theorem State.withDiagnostics_cr : (s.withDiagnostics l o).cr = s.cr := rfl
@[simp] theorem State.withDiagnostics_device (d : DevIndex) :
    (s.withDiagnostics l o).device d = s.device d := rfl

theorem afterAccess_withDiagnostics (m : Mem) :
    afterAccess m (s.withDiagnostics l o) = (afterAccess m s).withDiagnostics l o := by
  cases m <;> rfl

theorem leftOperand_withDiagnostics (left : LeftSel) :
    leftOperand left (s.withDiagnostics l o) = leftOperand left s := by
  cases left <;> rfl

theorem rightOperand_withDiagnostics (right : RightSel) :
    rightOperand right (s.withDiagnostics l o) = rightOperand right s := by
  cases right <;> rfl

theorem controlOperand_withDiagnostics (reg : CtrlReg) :
    controlOperand reg (s.withDiagnostics l o) = controlOperand reg s := by
  cases reg <;> rfl

theorem updateCarry_withDiagnostics (c : CarrySel) :
    updateCarry c (s.withDiagnostics l o) = (updateCarry c s).withDiagnostics l o := by
  cases c <;> rfl

theorem updateZn_withDiagnostics (z : ZnSel) :
    updateZn z (s.withDiagnostics l o) = (updateZn z s).withDiagnostics l o := by
  cases z <;> rfl

theorem writeBack_withDiagnostics (w : WbSel) (v : Word) :
    writeBack w v (s.withDiagnostics l o) = (writeBack w v s).withDiagnostics l o := by
  cases w <;> rfl

theorem ioTest_withDiagnostics (d : DevIndex) :
    ioTest d (s.withDiagnostics l o) = (ioTest d s).withDiagnostics l o := by
  unfold ioTest
  rw [State.withDiagnostics_device]
  split_ifs <;> rfl

/-- The case of the protocol is chosen by DR and acts on A, SR, CC and the devices (R280). -/
theorem ioCase_withDiagnostics :
    ioCase (s.withDiagnostics l o) = (ioCase s).withDiagnostics l o := by
  unfold ioCase
  rw [State.withDiagnostics_dr]
  split_ifs
  · rfl
  · rfl
  · exact ioTest_withDiagnostics s l o _
  · rfl

/-- An ignored connect appends to whichever log there is; the protocol leaves it (R230). -/
theorem connect_withDiagnostics :
    ∃ l', connect (s.withDiagnostics l o) = (connect s).withDiagnostics l' o := by
  unfold connect ioProtocol
  rw [State.withDiagnostics_dr, State.withDiagnostics_cr, ioCase_withDiagnostics]
  split_ifs
  · exact ⟨l, rfl⟩
  · exact ⟨_, rfl⟩

theorem aluCompute_withDiagnostics (left : LeftSel) (right : RightSel) (inv : Inv) (op : AluOp)
    (mem : Mem) :
    aluCompute left right inv op mem (s.withDiagnostics l o) =
      { aluCompute left right inv op mem s with log := l } := by
  simp only [aluCompute_eq, afterAccess_withDiagnostics, leftOperand_withDiagnostics,
    rightOperand_withDiagnostics]
  rfl

theorem aluPath_withDiagnostics (left : LeftSel) (right : RightSel) (inv : Code Inv)
    (op : Code AluOp) (shift : Code Shift) (mem : Code Mem) :
    aluPath left right inv op shift mem (s.withDiagnostics l o) =
      { aluPath left right inv op shift mem s with log := l } := by
  fun_cases aluPath left right inv op shift mem s
  case case4 m i o' => exact aluCompute_withDiagnostics ..
  all_goals rfl

theorem controlPath_withDiagnostics (cmp : Bool) (reg : CtrlReg) (bit : BitVec 4)
    (target : MicroAddr) :
    controlPath cmp reg bit target (s.withDiagnostics l o) =
      { controlPath cmp reg bit target s with log := l } := by
  unfold controlPath
  rw [controlOperand_withDiagnostics]
  split_ifs <;> rfl

theorem statusPath_withDiagnostics (st : StatusFields) :
    statusPath st (s.withDiagnostics l o) = { statusPath st s with log := l } := by
  unfold statusPath flagsUpdated
  rw [updateCarry_withDiagnostics, updateZn_withDiagnostics]
  exact congrArg (State.returning · .success) (writeBack_withDiagnostics ..)

theorem ioPath_withDiagnostics (conn rdy di ei : Bool) :
    ∃ l', ioPath conn rdy di ei (s.withDiagnostics l o) =
      { ioPath conn rdy di ei s with log := l' } := by
  have hconn : ∃ l', whenSet conn connect (s.withDiagnostics l o) =
      (whenSet conn connect s).withDiagnostics l' o := by
    cases conn
    · exact ⟨l, rfl⟩
    · exact connect_withDiagnostics s l o
  obtain ⟨l', he⟩ := hconn
  refine ⟨l', ?_⟩
  unfold ioPath
  rw [he]
  cases rdy <;> cases di <;> cases ei <;> rfl

/-- A decoded word from another log and another recorded outcome: the log alone is another (R27,
R49). -/
theorem runTerm_withDiagnostics (m : MicroTerm) :
    ∃ l', runTerm m (s.withDiagnostics l o) = { runTerm m s with log := l' } := by
  cases m with
  | op0 left right inv op shift mem =>
    exact ⟨l, aluPath_withDiagnostics s l o left right inv op shift mem⟩
  | ctrl cmp reg bit target => exact ⟨l, controlPath_withDiagnostics s l o cmp reg bit target⟩
  | op1 io halt st =>
    show ∃ l', op1Path io halt st _ = { op1Path io halt st s with log := l' }
    unfold op1Path
    split_ifs
    · exact ⟨l, rfl⟩
    · exact ioPath_withDiagnostics s l o ..
    · exact ⟨l, statusPath_withDiagnostics s l o st⟩

/-- The word fetched is the same and is recorded over whatever MCR held (R260, R27). -/
theorem microStep_withDiagnostics (w : Word) (hm : s.faultMark = none) :
    microStep ((s.withDiagnostics l o).setMcr w) =
      .next (advance (runTerm (decodeTerm (fetchWord s)) ((fetched s).withDiagnostics l o))) := by
  have hm' : ((s.withDiagnostics l o).setMcr w).faultMark = none := hm
  unfold microStep
  rw [hm']
  rfl

/-- The end of a micro-step does not read the log (R262). -/
theorem advance_withLog : advance { s with log := l } = { advance s with log := l } := by
  simp only [advance]
  split <;> rfl

end

end Sys2Proof.Machine

namespace Sys2Proof

open Machine Spec

/-- Settles O52: the fetch overwrites MCR, and the decoded word leaves the log alone different. -/
theorem diagnosticsDoNotInfluenceSteps : Obligations.DiagnosticsDoNotInfluenceSteps := by
  intro s s' t hsame hstep
  obtain ⟨w, l, o, rfl⟩ : ∃ w l o, s' = (s.withDiagnostics l o).setMcr w :=
    ⟨s'.mcr, s'.log, s'.outcome, hsame⟩
  rw [step_eq_microStep] at hstep ⊢
  rcases microStep_cases s with ⟨f, _, he⟩ | ⟨hm, he⟩
  · rw [he] at hstep; cases hstep
  · rw [he] at hstep
    cases hstep
    obtain ⟨l', hl⟩ := runTerm_withDiagnostics (fetched s) l o (decodeTerm (fetchWord s))
    refine ⟨{ advance (runTerm (decodeTerm (fetchWord s)) (fetched s)) with log := l' }, ?_, rfl⟩
    rw [microStep_withDiagnostics s l o w hm, hl, advance_withLog]

end Sys2Proof

/-! PROOF. What a decoded word can do to the memory banks and the log (spec/20_memory.md R63, R66,
spec/60_exceptions.md R350), said once for the three shapes, and what it means for the whole step and
for every instruction. -/

namespace Sys2Proof.Machine

/-- What a decoded word does to the storage that outlives it: microcode memory is kept (R66), general
memory takes at most the one store of the data port, DR at AR (R63), and the log one entry (R350). -/
structure StorageEffect (s t : State) : Prop where
  micro : t.micro = s.micro
  gen : t.gen = s.gen ∨ t.gen = (s.setGenWord s.ar s.dr).gen
  log : t.log = s.log ∨ ∃ e, t.log = (s.appendLog e).log

/-- A path that writes neither a bank nor the log. -/
theorem StorageEffect.of_eq {s t : State} (hm : t.micro = s.micro) (hg : t.gen = s.gen)
    (hl : t.log = s.log) : StorageEffect s t :=
  ⟨hm, .inl hg, .inl hl⟩

/-- The only writer of general memory is OP0 with a memory write (R194). -/
theorem aluPath_storage (left : LeftSel) (right : RightSel) (inv : Code Inv) (op : Code AluOp)
    (shift : Code Shift) (mem : Code Mem) (s : State) :
    StorageEffect s (aluPath left right inv op shift mem s) := by
  rcases aluPath_cases left right inv op shift mem s with ⟨v, he⟩ | ⟨m, v, _, he⟩ | ⟨_, he⟩ <;>
    rw [he]
  · exact .of_eq rfl rfl rfl
  · cases m
    case write => exact ⟨rfl, .inr rfl, .inl rfl⟩
    all_goals exact .of_eq rfl rfl rfl
  · exact .of_eq rfl rfl rfl

/-- CTRL writes no storage (R250). -/
theorem controlPath_storage (cmp : Bool) (reg : CtrlReg) (bit : BitVec 4) (target : MicroAddr)
    (s : State) : StorageEffect s (controlPath cmp reg bit target s) := by
  unfold controlPath
  split <;> exact .of_eq rfl rfl rfl

/-- The status path writes registers and flags alone (R220). -/
theorem statusPath_storage (st : StatusFields) (s : State) : StorageEffect s (statusPath st s) := by
  rw [statusPath_eq]
  exact .of_eq rfl rfl rfl

/-- The case of the I/O protocol writes a device or a register (R280 to R284). -/
theorem ioCase_storage (s : State) : StorageEffect s (ioCase s) := by
  rcases ioCase_cases s with ⟨_, he⟩ | ⟨_, _, he⟩ | ⟨_, _, he⟩ | ⟨_, _, he⟩ <;> rw [he]
  case inr.inr.inl =>
    unfold ioTest
    split <;> exact .of_eq rfl rfl rfl
  all_goals exact .of_eq rfl rfl rfl

/-- The only writer of the log is a connect that is ignored (R230). -/
theorem connect_storage (s : State) : StorageEffect s (connect s) := by
  rcases connect_cases s with ⟨_, he⟩ | ⟨_, he⟩ <;> rw [he]
  · obtain ⟨hm, hg, hl⟩ := ioCase_storage s
    exact ⟨hm, hg, hl⟩
  · exact ⟨rfl, .inl rfl, .inr ⟨_, rfl⟩⟩

/-- The I/O path does to the storage what connect does, if it is set (R227). -/
theorem ioPath_storage (conn rdy di ei : Bool) (s : State) :
    StorageEffect s (ioPath conn rdy di ei s) := by
  rw [ioPath_eq]
  cases conn
  · exact .of_eq rfl rfl rfl
  · obtain ⟨hm, hg, hl⟩ := connect_storage s
    exact ⟨hm, hg, hl⟩

/-- Every decoded word keeps to the storage effect, whichever of the three shapes it has. -/
theorem runTerm_storage (m : MicroTerm) (s : State) : StorageEffect s (runTerm m s) := by
  cases m with
  | op0 left right inv op shift mem => exact aluPath_storage left right inv op shift mem s
  | ctrl cmp reg bit target => exact controlPath_storage cmp reg bit target s
  | op1 io halt st =>
    show StorageEffect s (op1Path io halt st s)
    unfold op1Path
    split_ifs
    · exact .of_eq rfl rfl rfl
    · exact ioPath_storage ..
    · exact statusPath_storage st s

/-- A store at an 11-bit address keeps the invariant, since it is inside the bank (R25, R60). -/
theorem invariant_setGenWord {s : State} (x : GenAddr) (w : Word) (hs : Invariant s) :
    Invariant (s.setGenWord x w) := by
  obtain ⟨hwf, hlog⟩ := hs
  exact ⟨genWf_genStore hwf (genAddr_lt x), hlog⟩

/-- One store of the data port and one log entry keep the invariant. -/
theorem StorageEffect.invariant {s t : State} (h : StorageEffect s t) (hs : Invariant s) :
    Invariant t := by
  constructor
  · rcases h.gen with he | he <;> rw [he]
    · exact hs.1
    · exact (invariant_setGenWord s.ar s.dr hs).1
  · rcases h.log with he | ⟨e, he⟩ <;> rw [he]
    · exact hs.2
    · exact ringAppend_length ..

/-- The invariant is kept by all that steps and instructions are made of. -/
theorem microClosed_invariant : MicroClosed Invariant where
  runTerm m s hs := (runTerm_storage m s).invariant hs
  setMcr _ _ hs := hs
  setMpc _ _ hs := hs
  setGenWord x w _ hs := invariant_setGenWord x w hs

/-- Given contents of microcode memory are kept by them too (R66). -/
theorem microClosed_micro (cells : MicroCells) : MicroClosed fun t => t.micro = cells where
  runTerm m s hs := (runTerm_storage m s).micro.trans hs
  setMcr _ _ hs := hs
  setMpc _ _ hs := hs
  setGenWord _ _ _ hs := hs

end Sys2Proof.Machine

namespace Sys2Proof

open Machine

/-- Settles O46: a step is a decoded word and writes of MCR and MPC, and each keeps the invariant. -/
theorem stepKeepsInvariant : Obligations.StepKeepsInvariant := by
  intro s t hs h
  exact microClosed_invariant.step hs h

/-- Settles O47: a micro row is a decoded word; a macro row is a store inside the bank and the induction
over its run. -/
theorem everyInstructionKeepsInvariant : Obligations.EveryInstructionKeepsInvariant := by
  intro i s t hs h
  exact microClosed_invariant.exec hs h

/-- Settles O49: microcode memory stays what it was through decoded words and macro runs. -/
theorem noInstructionWritesMicro : Obligations.NoInstructionWritesMicro := by
  constructor
  · intro i s t h
    exact (microClosed_micro s.micro).exec rfl h
  · intro s t h
    exact (microClosed_micro s.micro).step rfl h

end Sys2Proof

/-! PROOF. The host's cell port (spec/20_memory.md R64, R67): a cell read after a set, and the refusal
outside the bank. -/

namespace Sys2Proof

open Machine

/-- A set outside the bank is refused (R67). -/
theorem hostSetCell_outside {b : Bank} {i : Nat} (hi : ¬ i < b.size) (v : Nat) (s : State) :
    hostSetCell b i v s = none :=
  if_neg hi

/-- A get outside the bank is refused (R67). -/
theorem hostGetCell_outside {b : Bank} {i : Nat} (hi : ¬ i < b.size) (s : State) :
    hostGetCell b i s = none :=
  if_neg hi

/-- A get after a set: the low 16 bits at its cell, every other cell of both banks as before (R64). -/
theorem hostGetCell_hostSetCell {b : Bank} {i v : Nat} {s t : State} (hwf : genWf s.gen = true)
    (ht : hostSetCell b i v s = some t) (c : Bank) (j : Nat) :
    hostGetCell c j t = if c = b ∧ j = i then some (BitVec.ofNat 16 v) else hostGetCell c j s :=
  memRead_memWrite hwf ht c j

/-- Settles O55: inside the bank by the read after the write and its frame, outside by refusal. -/
theorem cellPortWritesOneCell : Obligations.CellPortWritesOneCell := by
  intro b i v s hwf
  by_cases hi : i < b.size
  · rw [if_pos]
    · obtain ⟨t, ht, hframe⟩ := memWrite_inside (BitVec.ofNat 16 v) s hi
      have hget := hostGetCell_hostSetCell hwf ht
      refine ⟨t, ht, ?_, fun c j hne => ?_, hframe, memWrite_genWf hwf ht⟩
      · rw [hget, if_pos ⟨rfl, rfl⟩]
      · rw [hget, if_neg (not_and_or.2 hne)]
    · cases b <;> exact hi
  · rw [if_neg]
    · exact ⟨hostSetCell_outside hi v s, hostGetCell_outside hi s⟩
    · cases b <;> exact hi

end Sys2Proof

/-! PROOF. The canonical form of general memory is determined by what it reads (log 2): two canonical
lists that read the same have the same first index, else the lower one would be listed in one and
unlisted in the other. -/

namespace Sys2Proof.Machine

/-- A canonical list: its first cell is inside the bank and not 0, the rest canonical above it. -/
theorem genWf_cons {c : Nat × Word} {rest : GenCells} :
    genWf (c :: rest) = true ↔
      c.1 < Config.genWords ∧ c.2 ≠ genUnlisted ∧ genRising (some c.1) rest = true ∧
        genWf rest = true := by
  simp only [genWf, genRising, List.all_cons, Bool.and_eq_true, decide_eq_true_eq]
  constructor
  · rintro ⟨hr, ⟨hi, hv⟩, hall⟩
    exact ⟨hi, hv, hr, genRising_none hr, hall⟩
  · rintro ⟨hi, hv, hr, _, hall⟩
    exact ⟨hr, ⟨hi, hv⟩, hall⟩

/-- The first cell listed is read at its index. -/
@[simp] theorem genLookup_cons_self (c : Nat × Word) (rest : GenCells) :
    genLookup (c :: rest) c.1 = c.2 :=
  if_pos rfl

/-- Another index is read in the rest. -/
theorem genLookup_cons_ne {c : Nat × Word} {i : Nat} (h : c.1 ≠ i) (rest : GenCells) :
    genLookup (c :: rest) i = genLookup rest i :=
  if_neg h

/-- The two lists read the same in every cell of general memory. -/
def ReadSame (c d : GenCells) : Prop :=
  ∀ i, i < Config.genWords → genLookup c i = genLookup d i

theorem ReadSame.symm {c d : GenCells} (h : ReadSame c d) : ReadSame d c :=
  fun i hi => (h i hi).symm

/-- A list that lists a cell does not read like the empty one. -/
theorem not_readSame_nil {c : Nat × Word} {rest : GenCells} (hc : genWf (c :: rest) = true) :
    ¬ ReadSame (c :: rest) [] := by
  intro h
  obtain ⟨hi, hv, -, -⟩ := genWf_cons.1 hc
  exact hv (genLookup_cons_self c rest ▸ h c.1 hi)

/-- Where the lists read the same, the first index of one is not below that of the other. -/
theorem ReadSame.head_le {c d : Nat × Word} {cs ds : GenCells} (h : ReadSame (c :: cs) (d :: ds))
    (hc : genWf (c :: cs) = true) (hd : genWf (d :: ds) = true) : d.1 ≤ c.1 := by
  by_contra hlt
  obtain ⟨hi, hv, -, -⟩ := genWf_cons.1 hc
  obtain ⟨-, -, hrise, -⟩ := genWf_cons.1 hd
  have hunlisted : genLookup (d :: ds) c.1 = genUnlisted := by
    rw [genLookup_cons_ne (by omega), genLookup_below hrise (by omega)]
  exact hv (by rw [← hunlisted, ← h c.1 hi, genLookup_cons_self])

/-- Canonical lists that read the same begin with the same cell. -/
theorem ReadSame.head_eq {c d : Nat × Word} {cs ds : GenCells} (h : ReadSame (c :: cs) (d :: ds))
    (hc : genWf (c :: cs) = true) (hd : genWf (d :: ds) = true) : c = d := by
  have hindex : c.1 = d.1 := Nat.le_antisymm (h.symm.head_le hd hc) (h.head_le hc hd)
  have hword := h c.1 (genWf_cons.1 hc).1
  rw [genLookup_cons_self, hindex, genLookup_cons_self] at hword
  exact Prod.ext hindex hword

/-- Below a common first cell, canonical lists that read the same go on reading the same. -/
theorem ReadSame.tail {c : Nat × Word} {cs ds : GenCells} (h : ReadSame (c :: cs) (c :: ds))
    (hc : genRising (some c.1) cs = true) (hd : genRising (some c.1) ds = true) : ReadSame cs ds := by
  intro i hi
  by_cases hle : i ≤ c.1
  · rw [genLookup_below hc hle, genLookup_below hd hle]
  · have hread := h i hi
    rwa [genLookup_cons_ne (by omega), genLookup_cons_ne (by omega)] at hread

/-- Canonical lists that read the same are the same list. -/
theorem ReadSame.eq {c d : GenCells} (h : ReadSame c d) (hc : genWf c = true) (hd : genWf d = true) :
    c = d := by
  induction c generalizing d with
  | nil =>
    cases d with
    | nil => rfl
    | cons d ds => exact absurd h.symm (not_readSame_nil hd)
  | cons c cs ih =>
    cases d with
    | nil => exact absurd h (not_readSame_nil hc)
    | cons d ds =>
      obtain rfl := h.head_eq hc hd
      obtain ⟨-, -, hcrise, hcs⟩ := genWf_cons.1 hc
      obtain ⟨-, -, hdrise, hds⟩ := genWf_cons.1 hd
      rw [ih (h.tail hcrise hdrise) hcs hds]

end Sys2Proof.Machine

namespace Sys2Proof

open Machine

/-- Settles O56: the lists agree cell by cell from their first index on. -/
theorem equalGeneralMemoriesAreEqualData : Obligations.EqualGeneralMemoriesAreEqualData := by
  intro c d hc hd h
  exact ReadSame.eq h hc hd

end Sys2Proof

/-! PROOF. The micro words and their terms (spec/30_encoding.md R91 to R95): each field code and its
reading undo each other, decode reads back the term of a written word, and writing the term of a read
word gives the word without its spare bits. -/

namespace Sys2Proof

/-! ## Field codes (R91 to R93) -/

@[simp] theorem LeftSel.ofCode_code (l : LeftSel) : LeftSel.ofCode l.code = l := by
  cases l <;> rfl

@[simp] theorem LeftSel.code_ofCode (b : BitVec 2) : (LeftSel.ofCode b).code = b := by
  revert b; decide

@[simp] theorem RightSel.ofCode_code (r : RightSel) : RightSel.ofCode r.code = r := by
  cases r <;> rfl

@[simp] theorem RightSel.code_ofCode (b : BitVec 2) : (RightSel.ofCode b).code = b := by
  revert b; decide

@[simp] theorem invOfCode_invCode (c : Code Inv) : invOfCode (invCode c) = c := by
  fun_cases invCode c <;> rfl

@[simp] theorem invCode_invOfCode (b : BitVec 2) : invCode (invOfCode b) = b := by
  revert b; decide

@[simp] theorem aluOpOfCode_aluOpCode (c : Code AluOp) : aluOpOfCode (aluOpCode c) = c := by
  fun_cases aluOpCode c <;> rfl

@[simp] theorem aluOpCode_aluOpOfCode (b : BitVec 2) : aluOpCode (aluOpOfCode b) = b := by
  revert b; decide

@[simp] theorem shiftOfCode_shiftCode (c : Code Shift) : shiftOfCode (shiftCode c) = c := by
  fun_cases shiftCode c <;> rfl

@[simp] theorem shiftCode_shiftOfCode (b : BitVec 2) : shiftCode (shiftOfCode b) = b := by
  revert b; decide

@[simp] theorem memOfCode_memCode (c : Code Mem) : memOfCode (memCode c) = c := by
  fun_cases memCode c <;> rfl

@[simp] theorem memCode_memOfCode (b : BitVec 2) : memCode (memOfCode b) = b := by
  revert b; decide

@[simp] theorem CarrySel.ofCode_code (c : CarrySel) : CarrySel.ofCode c.code = c := by
  cases c <;> rfl

@[simp] theorem CarrySel.code_ofCode (b : BitVec 2) : (CarrySel.ofCode b).code = b := by
  revert b; decide

@[simp] theorem ZnSel.ofCode_code (z : ZnSel) : ZnSel.ofCode z.code = z := by
  cases z <;> rfl

@[simp] theorem ZnSel.code_ofCode (b : BitVec 2) : (ZnSel.ofCode b).code = b := by
  revert b; decide

@[simp] theorem WbSel.ofCode_code (w : WbSel) : WbSel.ofCode w.code = w := by
  cases w <;> rfl

@[simp] theorem WbSel.code_ofCode (b : BitVec 3) : (WbSel.ofCode b).code = b := by
  revert b; decide

@[simp] theorem CtrlReg.ofCode_code (r : CtrlReg) : CtrlReg.ofCode r.code = r := by
  cases r <;> rfl

@[simp] theorem CtrlReg.code_ofCode (b : BitVec 2) : (CtrlReg.ofCode b).code = b := by
  revert b; decide

/-! ## Words and terms -/

/-- No two fields overlap, so each is read back from its place (R91 to R93). The lemmas about `++` see the
single fields only while the sum of their widths stays unevaluated. -/
@[simp] theorem decodeTerm_encodeTerm (t : MicroTerm) : decodeTerm (encodeTerm t) = t := by
  cases t <;>
    simp (disch := omega) [decodeTerm, encodeTerm, BitVec.getLsbD_append,
      BitVec.extractLsb'_append_eq_of_le, BitVec.extractLsb'_append_eq_of_add_le,
      -BitVec.getLsbD_eq_getElem, -Nat.reduceAdd]

/-- The bits that are not spare in the class of R90 given by bits 15 and 14 of a word: all of CTRL, all
but 12 and 13 of OP1, all but 10 and 11 of OP0 (R91 to R93, R96). -/
def usedBits : Bool → Bool → Word
  | true, _ => BitVec.allOnes 16
  | false, true => 0xCFFF#16
  | false, false => 0xF3FF#16

/-- The class bits and the fields of a word are all its bits but the spare ones, which are written 0: bit
by bit in each class. -/
theorem encodeTerm_decodeTerm (w : Word) :
    encodeTerm (decodeTerm w) = w &&& usedBits (w.getLsbD 15) (w.getLsbD 14) := by
  refine BitVec.eq_of_getLsbD_eq fun n hn => ?_
  rw [BitVec.getLsbD_and]
  cases h15 : w.getLsbD 15 <;> cases h14 : w.getLsbD 14 <;> interval_cases n <;>
    simp [usedBits, decodeTerm, encodeTerm, h15, h14, BitVec.getLsbD_append,
      -BitVec.getLsbD_eq_getElem, -Nat.reduceAdd]

/-! ## Rows and terms -/

/-- The word of a row is the word of its term: the row says which OP1 flags are set (log 5). -/
@[simp] theorem encode_classify (t : MicroTerm) : encode (classify t) = encodeTerm t := by
  fun_cases classify t <;> rfl

/-- Every micro row is the row of a term. -/
theorem exists_classify_eq {i : Instr} (h : i.level = .micro) : ∃ t, classify t = i := by
  cases i with
  | mcOp0 left right inv op shift mem => exact ⟨.op0 left right inv op shift mem, rfl⟩
  | mcHalt io st => exact ⟨.op1 io true st, rfl⟩
  | mcIoConn rdy di ei st => exact ⟨.op1 ⟨true, rdy, di, ei⟩ false st, rfl⟩
  | mcIoRdy di ei st => exact ⟨.op1 ⟨false, true, di, ei⟩ false st, rfl⟩
  | mcIoDi ei st => exact ⟨.op1 ⟨false, false, true, ei⟩ false st, rfl⟩
  | mcIoEi st => exact ⟨.op1 ⟨false, false, false, true⟩ false st, rfl⟩
  | mcFlagsWb st => exact ⟨.op1 ⟨false, false, false, false⟩ false st, rfl⟩
  | mcCtrl cmp reg bit target => exact ⟨.ctrl cmp reg bit target, rfl⟩
  | _ => cases h

/-- The encoding of a decoded micro word is the word of its term. -/
theorem encode_decodeMicro (w : Word) : encode (decodeMicro w) = encodeTerm (decodeTerm w) :=
  encode_classify _

/-- Settles O1: a micro row is the row of a term, and decode reads that term back from its word. -/
theorem microDecodeReadsBackEncode : Obligations.MicroDecodeReadsBackEncode := by
  intro i hi
  obtain ⟨t, rfl⟩ := exists_classify_eq hi
  rw [encode_classify, decodeMicro, decodeTerm_encodeTerm]

/-- Settles O3: the top two bits of the word give its class, and the class its spare bits. -/
theorem microWordReencodesButSpareBits : Obligations.MicroWordReencodesButSpareBits := by
  intro w
  have h15 : w.getLsbD 15 = decide (32768 ≤ w.toNat) := BitVec.getLsbD_last w
  have h14 : w.getLsbD 14 = decide (w.toNat / 16384 % 2 = 1) := Nat.testBit_eq_decide_div_mod_eq
  rw [encode_decodeMicro, encodeTerm_decodeTerm, h15, h14]
  split_ifs with hop0 hop1
  · rw [decide_eq_false (by omega), decide_eq_false (by omega), usedBits]
  · rw [decide_eq_false (by omega), decide_eq_true (by omega), usedBits]
  · rw [decide_eq_true (by omega), usedBits, BitVec.and_allOnes]

/-- Settles O5: the words are fixed, so both decoders are evaluated on them. -/
theorem writtenOutWordsDecode : Obligations.WrittenOutWordsDecode := by
  unfold Obligations.WrittenOutWordsDecode
  decide

end Sys2Proof

/-! PROOF. The macro decoder (spec/40_macro_decoder.md R130 to R133): the scan answers the first row in
its order that matches; a canonical word carries the fixed bits of its row, and every row scanned before
has a fixed bit the row lacks, so the scan answers the row itself, and the operand is read back from the
bits the mask leaves free. -/

namespace Sys2Proof

/-! ## The scan (R130) -/

theorem Mnemonic.matchesWord_iff {m : Mnemonic} {w : Word} :
    m.matchesWord w = true ↔ w &&& m.mask = m.mask :=
  beq_iff_eq

/-- Every row stands in the descriptor table (R131). -/
theorem mem_scanOrder (m : Mnemonic) : m ∈ scanOrder := by
  cases m <;> decide

/-- The scan answers a row exactly when it matches and no row before it does (R130); it always answers
one, since ISZ matches every word (R102). -/
theorem selectRow_eq_iff {w : Word} {m : Mnemonic} :
    selectRow w = m ↔ ∃ before after, scanOrder = before ++ m :: after ∧
      w &&& m.mask = m.mask ∧ ∀ r ∈ before, w &&& r.mask ≠ r.mask := by
  have hfound : (scanOrder.find? (·.matchesWord w)).isSome :=
    List.find?_isSome.2 ⟨.ISZ, mem_scanOrder _, Mnemonic.matchesWord_iff.2 BitVec.and_zero⟩
  obtain ⟨r, hr⟩ := Option.isSome_iff_exists.1 hfound
  have hselect : selectRow w = m ↔ scanOrder.find? (·.matchesWord w) = some m := by
    simp [selectRow, hr]
  rw [hselect, List.find?_eq_some_iff_append]
  simp only [Mnemonic.matchesWord_iff, Bool.not_eq_true', ← Bool.not_eq_true]
  tauto

/-- Settles O4: the scan's own row is the first match, and the operand fields are cut out of the word
at the same places (R132). -/
theorem macroScanSelectsFirstMatch : Obligations.MacroScanSelectsFirstMatch := by
  intro w
  refine ⟨selectRow_eq_iff.1 rfl, ?_⟩
  unfold decodeMacro
  congr 1

/-! ## Canonical words (R131, R133, R300) -/

/-- The bits of a word that a row of this kind fixes: all but the operand bits of R99, and of a row
without operand the bits the table fixes (R104). -/
def OperandKind.fixedBits : OperandKind → Word
  | .address => 0xF000#16
  | .io => 0xFF00#16
  | .simple => 0xFFFF#16

/-- The canonical word of a row with its operands given apart (R300). -/
def rowWord (m : Mnemonic) (indirect : Bool) (addr : GenAddr) (dev : DevIndex) : Word :=
  match m.kind with
  | .address => addressWord m indirect addr
  | .io => deviceWord m dev
  | .simple => m.mask

theorem mask_and_fixedBits (m : Mnemonic) : m.mask &&& m.kind.fixedBits = m.mask := by
  cases m <;> rfl

/-- A canonical word carries the fixed bits of its row (R98, R99). -/
theorem rowWord_and_fixedBits (m : Mnemonic) (x : Bool) (addr : GenAddr) (dev : DevIndex) :
    rowWord m x addr dev &&& m.kind.fixedBits = m.mask := by
  have hmask := mask_and_fixedBits m
  unfold rowWord
  cases hk : m.kind <;> rw [hk] at hmask
  · exact hmask
  · exact Laws.addressWord_and m x addr hmask
  · exact Laws.deviceWord_and m dev hmask

/-- The rows of the table before a row (R131). -/
def rowsBefore (m : Mnemonic) : List Mnemonic :=
  scanOrder.takeWhile (· ≠ m)

theorem exists_scanOrder_eq (m : Mnemonic) : ∃ after, scanOrder = rowsBefore m ++ m :: after := by
  cases m <;> exact ⟨_, rfl⟩

/-- Every row scanned before another has a set mask bit among the other's fixed bits that the other's
mask lacks: the table is sorted by the number of mask bits (R131). -/
theorem mask_not_subset_of_mem_rowsBefore (m : Mnemonic) :
    ∀ r ∈ rowsBefore m, m.mask &&& r.mask ≠ r.mask &&& m.kind.fixedBits := by
  cases m <;> decide

/-- A word with the fixed bits of a row decodes to it: a row before it would need a bit that is 0. -/
theorem selectRow_of_and_fixedBits {m : Mnemonic} {w : Word} (h : w &&& m.kind.fixedBits = m.mask) :
    selectRow w = m := by
  obtain ⟨after, hscan⟩ := exists_scanOrder_eq m
  refine selectRow_eq_iff.2 ⟨_, after, hscan, ?_, fun r hr hmatch => ?_⟩
  · calc w &&& m.mask = w &&& (m.mask &&& m.kind.fixedBits) := by rw [mask_and_fixedBits]
      _ = w &&& m.kind.fixedBits &&& m.mask := by ac_rfl
      _ = m.mask := by rw [h, BitVec.and_self]
  · refine mask_not_subset_of_mem_rowsBefore m r hr ?_
    calc m.mask &&& r.mask = w &&& r.mask &&& m.kind.fixedBits := by rw [← h]; ac_rfl
      _ = r.mask &&& m.kind.fixedBits := by rw [hmatch]

/-- The scan reaches the row of a canonical word (R133). -/
@[simp] theorem selectRow_rowWord (m : Mnemonic) (x : Bool) (addr : GenAddr) (dev : DevIndex) :
    selectRow (rowWord m x addr dev) = m :=
  selectRow_of_and_fixedBits (rowWord_and_fixedBits m x addr dev)

/-! ## Operands (R132) -/

/-- The indirect bit and the address are read back from the word of an address row. -/
theorem addressWord_operands {m : Mnemonic} (hk : m.kind = .address) (x : Bool) (addr : GenAddr) :
    (addressWord m x addr).getLsbD 11 = x ∧ (addressWord m x addr).extractLsb' 0 11 = addr := by
  have hmask : ∀ n (_ : n < 12), m.mask[n] = false := by
    revert hk
    cases m <;> decide
  constructor
  · cases x <;> simp [addressWord, hmask 11]
  · ext n hn
    simp [addressWord, hmask n (by omega), hn, show n < 16 by omega]

/-- The device is read back from the word of an I/O row. -/
theorem deviceWord_operand {m : Mnemonic} (hk : m.kind = .io) (dev : DevIndex) :
    (deviceWord m dev).extractLsb' 0 4 = dev := by
  revert dev hk
  cases m <;> decide

/-- A row's instruction is built from the operands of its own kind alone (R132). -/
theorem instrOf_congr {m : Mnemonic} {x y : Bool} {addr ea : GenAddr} {dev d : DevIndex}
    (haddress : m.kind = .address → x = y ∧ addr = ea) (hio : m.kind = .io → dev = d) :
    instrOf m x addr dev = instrOf m y ea d := by
  cases m
  case ISZ | AND | JSR | MOV | ADD | ADC | SUB | BCS | BPL | BMI | BEQ | BR =>
    obtain ⟨rfl, rfl⟩ := haddress rfl
    rfl
  case CLF | TSF | IN | OUT =>
    obtain rfl := hio rfl
    rfl
  all_goals rfl

/-- A canonical word decodes to its row with its operand (R133). -/
@[simp] theorem decodeMacro_rowWord (m : Mnemonic) (x : Bool) (addr : GenAddr) (dev : DevIndex) :
    decodeMacro (rowWord m x addr dev) = instrOf m x addr dev := by
  unfold decodeMacro
  rw [selectRow_rowWord]
  refine instrOf_congr (fun hk => ?_) (fun hk => ?_) <;> simp only [rowWord, hk]
  · exact addressWord_operands hk x addr
  · exact deviceWord_operand hk dev

/-! ## Rows and instructions -/

/-- The encoder writes the canonical word of the row (R300). -/
@[simp] theorem encode_instrOf (m : Mnemonic) (x : Bool) (addr : GenAddr) (dev : DevIndex) :
    encode (instrOf m x addr dev) = rowWord m x addr dev := by
  cases m <;> rfl

/-- Every macro instruction is a row of the descriptor table with operands (R131). -/
theorem exists_instrOf_eq {i : Instr} (h : i.level = .visible) :
    ∃ m x addr dev, instrOf m x addr dev = i := by
  cases i with
  | isz x addr => exact ⟨.ISZ, x, addr, 0#4, rfl⟩
  | and x addr => exact ⟨.AND, x, addr, 0#4, rfl⟩
  | jsr x addr => exact ⟨.JSR, x, addr, 0#4, rfl⟩
  | mov x addr => exact ⟨.MOV, x, addr, 0#4, rfl⟩
  | add x addr => exact ⟨.ADD, x, addr, 0#4, rfl⟩
  | adc x addr => exact ⟨.ADC, x, addr, 0#4, rfl⟩
  | sub x addr => exact ⟨.SUB, x, addr, 0#4, rfl⟩
  | bcs x addr => exact ⟨.BCS, x, addr, 0#4, rfl⟩
  | bpl x addr => exact ⟨.BPL, x, addr, 0#4, rfl⟩
  | bmi x addr => exact ⟨.BMI, x, addr, 0#4, rfl⟩
  | beq x addr => exact ⟨.BEQ, x, addr, 0#4, rfl⟩
  | br x addr => exact ⟨.BR, x, addr, 0#4, rfl⟩
  | clf dev => exact ⟨.CLF, false, 0#11, dev, rfl⟩
  | tsf dev => exact ⟨.TSF, false, 0#11, dev, rfl⟩
  | input dev => exact ⟨.IN, false, 0#11, dev, rfl⟩
  | output dev => exact ⟨.OUT, false, 0#11, dev, rfl⟩
  | hlt => exact ⟨.HLT, false, 0#11, 0#4, rfl⟩
  | nop => exact ⟨.NOP, false, 0#11, 0#4, rfl⟩
  | cla => exact ⟨.CLA, false, 0#11, 0#4, rfl⟩
  | clc => exact ⟨.CLC, false, 0#11, 0#4, rfl⟩
  | cma => exact ⟨.CMA, false, 0#11, 0#4, rfl⟩
  | cmc => exact ⟨.CMC, false, 0#11, 0#4, rfl⟩
  | rol => exact ⟨.ROL, false, 0#11, 0#4, rfl⟩
  | ror => exact ⟨.ROR, false, 0#11, 0#4, rfl⟩
  | inc => exact ⟨.INC, false, 0#11, 0#4, rfl⟩
  | dec => exact ⟨.DEC, false, 0#11, 0#4, rfl⟩
  | ei => exact ⟨.EI, false, 0#11, 0#4, rfl⟩
  | di => exact ⟨.DI, false, 0#11, 0#4, rfl⟩
  | _ => cases h

/-- The macro decoder reads back what the encoder writes (R133). -/
theorem decodeMacro_encode {i : Instr} (h : i.level = .visible) : decodeMacro (encode i) = i := by
  obtain ⟨m, x, addr, dev, rfl⟩ := exists_instrOf_eq h
  rw [encode_instrOf, decodeMacro_rowWord]

/-- Settles O2: the words of the three kinds are canonical words, from which the scan reads their row and
the field of their kind its operand. -/
theorem macroDecodeReadsBackEncode : Obligations.MacroDecodeReadsBackEncode := by
  refine ⟨fun i => decodeMacro_encode, fun m x addr hk => ?_, fun m dev hk => ?_, fun m hk => ?_⟩
  · simpa [rowWord, hk] using selectRow_rowWord m x addr 0#4
  · simpa [rowWord, hk] using selectRow_rowWord m false 0#11 dev
  · simpa [rowWord, hk] using selectRow_rowWord m false 0#11 0#4

end Sys2Proof

/-! PROOF. The round trip through disassembly text (spec/40_macro_decoder.md R135, R136): the tokens of a
rendering are the row's name and its operand's digits, the assembler finds the row by the name and reads
the digits back, so encoding the rendering gives the canonical word of the row with the same operand. -/

namespace Sys2Proof.Machine

/-! ## Tokens (R300) -/

/-- A text with no whitespace in it. -/
def Unbroken (t : Text) : Prop := ∀ c ∈ t, c.isWhitespace = false

/-- The token being read takes up every character before a whitespace. -/
theorem tokensFrom_append {t : Text} (h : Unbroken t) (acc rest : Text) :
    tokensFrom acc (t ++ rest) = tokensFrom (t.reverse ++ acc) rest := by
  induction t generalizing acc with
  | nil => rfl
  | cons c t ih =>
    obtain ⟨hc, ht⟩ := List.forall_mem_cons.1 h
    simp [tokensFrom, hc, ih ht]

/-- A text without whitespace is one token. -/
theorem tokens_of_unbroken {t : Text} (h : Unbroken t) (hne : t ≠ []) : tokens t = [t] := by
  simpa [tokens, tokensFrom, hne] using tokensFrom_append h [] []

/-- A blank ends the token before it. -/
theorem tokens_append_blank {t : Text} (h : Unbroken t) (hne : t ≠ []) (rest : Text) :
    tokens (t ++ ' ' :: rest) = t :: tokens rest := by
  simpa [tokens, tokensFrom, hne] using tokensFrom_append h [] (' ' :: rest)

/-! ## Hexadecimal digits (R304) -/

/-- What is shown of the 16 digits holds of the digit of every number. -/
theorem hexDigit_cases {P : Char → Nat → Prop} (h : ∀ d < 16, P (hexDigit d) d) (n : Nat) :
    P (hexDigit n) (n % 16) := by
  simpa [hexDigit] using h (n % 16) (Nat.mod_lt n (by omega))

/-- A digit reads back as its value. -/
@[simp] theorem hexValue_hexDigit (n : Nat) : hexValue (hexDigit n) = some (n % 16) :=
  hexDigit_cases (P := fun c d => hexValue c = some d) (by decide) n

/-- A digit is no blank and no parenthesis. -/
theorem hexDigit_plain (n : Nat) :
    (hexDigit n).isWhitespace = false ∧ hexDigit n ≠ '(' ∧ hexDigit n ≠ ')' :=
  hexDigit_cases (P := fun c _ => c.isWhitespace = false ∧ c ≠ '(' ∧ c ≠ ')') (by decide) n

/-- Digits are read one after the other. -/
theorem parseHexFrom_append (acc : Nat) (t u : Text) :
    parseHexFrom acc (t ++ u) = (parseHexFrom acc t).bind (parseHexFrom · u) := by
  induction t generalizing acc with
  | nil => rfl
  | cons c t ih =>
    simp only [List.cons_append, parseHexFrom]
    cases hexValue c with
    | none => rfl
    | some d => exact ih _

/-- The low digits of a number read back as the number modulo their range. -/
theorem parseHexFrom_hexText (k n : Nat) :
    parseHexFrom 0 (hexText k n) = some (n % 16 ^ k) := by
  induction k generalizing n with
  | zero => simp [hexText, parseHexFrom, Nat.mod_one]
  | succ k ih =>
    have hdigits : n / 16 % 16 ^ k * 16 + n % 16 = n % 16 ^ (k + 1) := by
      rw [pow_succ', Nat.mod_mul]
      ring
    simp [hexText, parseHexFrom_append, parseHexFrom, ih, hdigits]

theorem hexText_ne_nil {k : Nat} (hk : 0 < k) (n : Nat) : hexText k n ≠ [] := by
  obtain ⟨k, rfl⟩ := Nat.exists_eq_succ_of_ne_zero hk.ne'
  simp [hexText]

/-- Every character of a number's text is a digit. -/
theorem mem_hexText {k n : Nat} {c : Char} (h : c ∈ hexText k n) : ∃ d, c = hexDigit d := by
  induction k generalizing n with
  | zero => cases h
  | succ k ih =>
    rcases List.mem_append.1 h with h | h
    · exact ih h
    · exact ⟨n, List.mem_singleton.1 h⟩

theorem unbroken_hexText (k n : Nat) : Unbroken (hexText k n) := by
  intro c hc
  obtain ⟨d, rfl⟩ := mem_hexText hc
  exact (hexDigit_plain d).1

/-- A number within both the limit and the digits' range reads back (R301, R302). -/
theorem numberUpTo_hexText {limit k n : Nat} (hk : 0 < k) (hn : n ≤ limit) (hlt : n < 16 ^ k) :
    numberUpTo limit (hexText k n) = .ok n := by
  have hparse : parseHex (hexText k n) = some n := by
    have := parseHexFrom_hexText k n
    rw [Nat.mod_eq_of_lt hlt] at this
    unfold parseHex
    split
    · next h => exact absurd h (hexText_ne_nil hk n)
    · next h => rw [← h, this]
  simp [numberUpTo, hparse, hn]

/-! ## Operands (R301, R302) -/

/-- The text of an address operand (R135). -/
def addressText (indirect : Bool) (addr : GenAddr) : Text :=
  if indirect then '(' :: (hexText 3 addr.toNat ++ [')']) else hexText 3 addr.toNat

theorem unbroken_addressText (x : Bool) (addr : GenAddr) : Unbroken (addressText x addr) := by
  have hdigits := unbroken_hexText 3 addr.toNat
  cases x
  · exact hdigits
  · intro c hc
    have : c = '(' ∨ c ∈ hexText 3 addr.toNat ∨ c = ')' := by simpa [addressText] using hc
    rcases this with rfl | hc | rfl
    · decide
    · exact hdigits c hc
    · decide

theorem addressText_ne_nil (x : Bool) (addr : GenAddr) : addressText x addr ≠ [] := by
  cases x
  · exact hexText_ne_nil (by omega) _
  · exact List.cons_ne_nil _ _

/-- An address operand reads back from its text, its parentheses as the indirect flag. -/
theorem addressOperand_addressText (x : Bool) (addr : GenAddr) :
    addressOperand (addressText x addr) = .ok (x, addr.toNat) := by
  have hnumber : numberUpTo 0x7FF (hexText 3 addr.toNat) = .ok addr.toNat :=
    numberUpTo_hexText (by omega) (by have := addr.isLt; omega) (by have := addr.isLt; omega)
  cases x with
  | true => simp [addressText, addressOperand, hnumber]
  | false =>
    have hopen : ∀ rest, hexText 3 addr.toNat ≠ '(' :: rest := by
      intro rest h
      obtain ⟨d, hd⟩ := mem_hexText (h ▸ List.mem_cons_self ..)
      exact (hexDigit_plain d).2.1 hd.symm
    have hclose : (hexText 3 addr.toNat).getLast? ≠ some ')' := by
      intro h
      obtain ⟨d, hd⟩ := mem_hexText (List.mem_of_getLast? h)
      exact (hexDigit_plain d).2.2 hd.symm
    unfold addressOperand addressText
    split
    · next h => exact absurd h (hopen _)
    · simp [hclose, hnumber]

/-! ## Rows (R135, R300) -/

/-- The operand tokens of a rendering. -/
def operandTokens (m : Mnemonic) (x : Bool) (addr : GenAddr) (dev : DevIndex) : List Text :=
  match m.kind with
  | .simple => []
  | .address => [addressText x addr]
  | .io => [hexText 1 dev.toNat]

theorem unbroken_mnemonicName (m : Mnemonic) : Unbroken (mnemonicName m) := by
  unfold Unbroken
  cases m <;> simp [mnemonicName]

theorem mnemonicName_ne_nil (m : Mnemonic) : mnemonicName m ≠ [] := by
  cases m <;> exact List.cons_ne_nil _ _

/-- No two rows have the same name, so a name finds its row (R304). -/
@[simp] theorem mnemonicOf_mnemonicName (m : Mnemonic) : mnemonicOf (mnemonicName m) = some m := by
  cases m <;> rfl

/-- A rendering is the row's name and its operand token. -/
@[simp] theorem tokens_renderRow (m : Mnemonic) (x : Bool) (addr : GenAddr) (dev : DevIndex) :
    tokens (renderRow m x addr dev) = mnemonicName m :: operandTokens m x addr dev := by
  have hname := unbroken_mnemonicName m
  have hne := mnemonicName_ne_nil m
  unfold renderRow operandTokens
  cases m.kind with
  | simple => exact tokens_of_unbroken hname hne
  | address =>
    have hoperand := tokens_of_unbroken (unbroken_addressText x addr) (addressText_ne_nil x addr)
    simp only [← hoperand, ← tokens_append_blank hname hne]
    cases x <;> simp [addressText]
  | io =>
    have hoperand := tokens_of_unbroken (unbroken_hexText 1 dev.toNat) (hexText_ne_nil (by omega) _)
    simp only [← hoperand, ← tokens_append_blank hname hne]
    simp

/-- The operand token of a row reads back as its operand (R301, R302). -/
@[simp] theorem assembleRow_operandTokens (m : Mnemonic) (x : Bool) (addr : GenAddr) (dev : DevIndex) :
    assembleRow m (operandTokens m x addr dev) = .ok (instrOf m x addr dev) := by
  have haddress := addressOperand_addressText x addr
  have hdevice : numberUpTo 0xF (hexText 1 dev.toNat) = .ok dev.toNat :=
    numberUpTo_hexText (by omega) (by have := dev.isLt; omega) dev.isLt
  unfold assembleRow operandTokens
  cases hk : m.kind <;> simp only [haddress, hdevice, BitVec.ofNat_toNat, BitVec.setWidth_eq] <;>
    exact congrArg Except.ok (instrOf_congr (by simp [hk]) (by simp [hk]))

/-- Encoding a rendering gives the canonical word of the row with its operand (R136). -/
@[simp] theorem encodeText_renderRow (m : Mnemonic) (x : Bool) (addr : GenAddr) (dev : DevIndex) :
    encodeText (renderRow m x addr dev) = .ok (rowWord m x addr dev) := by
  simp [encodeText, assemble, assembleTokens]

/-- The rendering of a macro instruction is that of its row (R135). -/
@[simp] theorem render_instrOf (m : Mnemonic) (x : Bool) (addr : GenAddr) (dev : DevIndex) :
    render (instrOf m x addr dev) = some (renderRow m x addr dev) := by
  cases m <;> rfl

/-- A micro-instruction has no rendering. -/
theorem level_of_render_eq_some {i : Instr} {text : Text} (h : render i = some text) :
    i.level = .visible := by
  cases i
  case mcOp0 | mcHalt | mcIoConn | mcIoRdy | mcIoDi | mcIoEi | mcFlagsWb | mcCtrl => cases h
  all_goals rfl

/-- Encoding the rendering of an instruction gives its word. -/
theorem encodeText_of_render_eq_some {i : Instr} {text : Text} (h : render i = some text) :
    encodeText text = .ok (encode i) := by
  obtain ⟨m, x, addr, dev, rfl⟩ := exists_instrOf_eq (level_of_render_eq_some h)
  rw [render_instrOf, Option.some_inj] at h
  rw [← h, encodeText_renderRow, encode_instrOf]

/-- The disassembly of a word is the rendering of the instruction it decodes to (R130, R135). -/
theorem render_decodeMacro (w : Word) : render (decodeMacro w) = some (disassemble w) :=
  render_instrOf ..

end Sys2Proof.Machine

namespace Sys2Proof

open Machine

/-- Settles O6: disassembly is the rendering of the decoded instruction, whose encoding is its word; a
canonical word is the word of the instruction it decodes to. -/
theorem encodeOfRenderingIsCanonicalWord : Obligations.EncodeOfRenderingIsCanonicalWord := by
  have hword (w : Word) : encodeText (disassemble w) = .ok (encode (decodeMacro w)) :=
    encodeText_of_render_eq_some (render_decodeMacro w)
  refine ⟨fun i text => encodeText_of_render_eq_some, fun w => ⟨render_decodeMacro w, hword w⟩,
    fun i hi => ?_⟩
  rw [hword, decodeMacro_encode hi]

end Sys2Proof

/-! PROOF. Straight-line microprograms (spec/44_sequencer.md R260 to R263): one rule for each kind of
microword that says which state the word leaves and that the words after it come next, so that the rules
in the order of the words give the state in which a macro step halts. -/

namespace Sys2Proof.Machine

open Spec

/-! ## Macro instructions as runs (R263, log 6) -/

/-- A run that halts within the fuel is the macro step (R263, R267). -/
theorem runMacro_of_haltsIn {n : Nat} {s t : State} (h : HaltsIn n s t) {fuel : Nat} (hn : n ≤ fuel) :
    runMacro fuel s = .next t := by
  induction n generalizing s fuel with
  | zero => exact h.elim
  | succ n ih =>
    obtain ⟨fuel, rfl⟩ := Nat.exists_eq_succ_of_ne_zero (show fuel ≠ 0 by omega)
    obtain ⟨u, hstep, hend⟩ := h
    rw [step_eq_microStep] at hstep
    unfold runMacro
    rw [hstep]
    rcases hend with ⟨hhalted, -, rfl⟩ | ⟨hgoes, hmark, hrest⟩
    · simp [macroStepOver, hhalted]
    · simp [macroStepOver, hgoes, hmark, ih hrest (Nat.le_of_succ_le_succ hn)]

/-- A macro row is one macro step on its own word (R2, R137). -/
theorem exec_of_level_visible {i : Instr} (h : i.level = .visible) (s : State) :
    exec i s = runMacroWord (encode i) s := by
  cases i
  case mcOp0 | mcHalt | mcIoConn | mcIoRdy | mcIoDi | mcIoEi | mcFlagsWb | mcCtrl => cases h
  all_goals rfl

end Sys2Proof.Machine

namespace Sys2Proof.Spec

open Machine

/-! ## Microprograms in MICRO -/

/-- What MICRO holds from MPC on depends on MICRO and MPC alone, besides the mark. -/
theorem Holds.congr {ws : List Instr} {s t : State} (h : Holds ws s) (hmicro : t.micro = s.micro)
    (hmpc : t.mpc = s.mpc) (hmark : t.faultMark = none) : Holds ws t := by
  refine ⟨hmark, fun k hk => ?_⟩
  rw [State.microWord, hmicro, hmpc]
  exact h.2 k hk

/-- From a later address MICRO holds the later words. -/
theorem Holds.drop {ws : List Instr} {s : State} (h : Holds ws s) (n : Nat) :
    Holds (ws.drop n) (s.setMpc (s.mpc + BitVec.ofNat 8 n)) := by
  refine ⟨h.1, fun k hk => ?_⟩
  rw [List.length_drop] at hk
  rw [List.getElem?_drop, h.2 (n + k) (by omega), State.setMpc_microWord, State.setMpc_mpc,
    BitVec.ofNat_add, BitVec.add_assoc]

/-- The step of a held word runs it (R260). -/
theorem Holds.step {i : Instr} {ws : List Instr} {s u : State} (h : Holds (i :: ws) s)
    (hexec : exec i (fetched s) = .next u) : step s = .next (advance u) := by
  have hword := h.2 0 (Nat.zero_lt_succ _)
  rw [List.getElem?_cons_zero, Option.some_inj, BitVec.add_zero] at hword
  rw [Machine.step, h.1, fetchWord, ← hword, hexec]

end Sys2Proof.Spec

namespace Sys2Proof.Machine

open Spec

/-! ## The rules -/

/-- A step that neither halts nor faults leaves the rest of the run to the state after it (R263). -/
theorem haltsIn_succ {n : Nat} {s t u : State} {o : StepOutcome} (hstep : step s = .next u)
    (hmark : u.faultMark = none) (hrest : HaltsIn n u t) (ho : u.outcome = some o)
    (hgoes : o ≠ .halted := by decide) : HaltsIn (n + 1) s t :=
  ⟨u, hstep, .inr ⟨by simpa [ho] using hgoes, hmark, hrest⟩⟩

/-- The microprogram `ws`, where MICRO holds it at MPC, first halts after `n` micro-steps and leaves `t`
(R263). -/
def Runs (n : Nat) (ws : List Instr) (s t : State) : Prop :=
  Holds ws s → HaltsIn n s t

/-- The state after a micro-step of a word that does `effect` and returns Success or Halted: the fetch
before it (R27), MPC + 1 after it (R262). -/
@[simp] def passed (effect : State → State) (s : State) : State :=
  (effect (fetched s)).setMpc (s.mpc + 1#8)

/-- The state after a status word and a halt word. -/
@[simp] def written (st : StatusFields) (s : State) : State :=
  passed haltPath (passed (statusPath st) s)

/-- The state after a jump (R250, R262). -/
@[simp] def jumped (target : MicroAddr) (s : State) : State :=
  ((fetched s).setMpc target).returning .jumped

/-- The effect of an OP0 word without a shift (R190). -/
@[simp] def aluEffect (left : LeftSel) (right : RightSel) (inv : Inv) (op : AluOp) (mem : Mem) (s : State) :
    State :=
  ((afterAccess mem s).setBr (aluResult op
    (complementLeft inv (leftOperand left (afterAccess mem s)))
    (complementRight inv (rightOperand right (afterAccess mem s))))).returning .success

/-- The effect of an OP0 word with a shift that gives the value `v` of A and C (R192, R193). -/
@[simp] def shiftEffect (v : Word → Bool → Buffer) (s : State) : State :=
  (s.setBr (v s.a (s.flag .carry))).returning .success

/-- An effect that returns Success and leaves MICRO, MPC and the mark. -/
structure Passes (effect : State → State) : Prop where
  outcome : ∀ s, (effect s).outcome = some .success
  micro : ∀ s, (effect s).micro = s.micro
  mpc : ∀ s, (effect s).mpc = s.mpc
  faultMark : ∀ s, (effect s).faultMark = s.faultMark

/-- Connect leaves MICRO, MPC and the mark: it writes devices, A, SR, CC or the log (R230, R280). -/
theorem connect_keeps (s : State) :
    (connect s).micro = s.micro ∧ (connect s).mpc = s.mpc ∧ (connect s).faultMark = s.faultMark := by
  rcases connect_cases s with ⟨_, he⟩ | ⟨_, he⟩ <;> rw [he]
  · unfold ioProtocol
    rcases ioCase_cases s with ⟨_, he⟩ | ⟨_, _, he⟩ | ⟨_, _, he⟩ | ⟨_, _, he⟩ <;> rw [he]
    case inr.inr.inl =>
      unfold ioTest
      split <;> exact ⟨rfl, rfl, rfl⟩
    all_goals exact ⟨rfl, rfl, rfl⟩
  · exact ⟨rfl, rfl, rfl⟩

/-- The I/O path returns Success and leaves what connect leaves (R227). -/
theorem passes_ioPath (conn rdy di ei : Bool) : Passes (ioPath conn rdy di ei) := by
  have keeps (s : State) : (whenSet conn connect s).micro = s.micro ∧
      (whenSet conn connect s).mpc = s.mpc ∧ (whenSet conn connect s).faultMark = s.faultMark := by
    cases conn
    · exact ⟨rfl, rfl, rfl⟩
    · exact connect_keeps s
  constructor <;> intro s
  · rfl
  all_goals
    obtain ⟨hmicro, hmpc, hmark⟩ := keeps s
    rw [ioPath_eq]
    assumption

namespace Runs

variable {n : Nat} {i : Instr} {ws : List Instr} {s t : State}

/-- A halt word ends the run (R221). -/
theorem halt (io : IoFlags) (st : StatusFields) : Runs 1 (.mcHalt io st :: ws) s (passed haltPath s) :=
  fun h => ⟨passed haltPath s, h.step rfl, .inl ⟨rfl, rfl, rfl⟩⟩

/-- A word that returns Success leaves the rest of the run to the words after it (R262). -/
theorem pass {effect : State → State} (hexec : ∀ s, exec i s = .next (effect s))
    (hpasses : Passes effect) (hrest : Runs n ws (passed effect s) t) : Runs (n + 1) (i :: ws) s t := by
  intro h
  have hmpc : (effect (fetched s)).mpc = s.mpc := hpasses.mpc _
  have hmark : (passed effect s).faultMark = none := (hpasses.faultMark _).trans h.1
  have hstep : step s = .next (passed effect s) := by
    rw [h.step (hexec _), advance, hpasses.outcome, passed, hmpc]
  exact haltsIn_succ hstep hmark (hrest ((h.drop 1).congr (hpasses.micro _) rfl hmark))
    (hpasses.outcome _)

/-- An OP0 word without a shift (R190). -/
theorem alu {left : LeftSel} {right : RightSel} {inv : Inv} {op : AluOp} {mem : Mem}
    (hrest : Runs n ws (passed (aluEffect left right inv op mem) s) t) :
    Runs (n + 1) (aluWord left right inv op mem :: ws) s t :=
  pass (fun s => congrArg Host.Outcome.next (aluCompute_eq left right inv op mem s))
    ⟨fun _ => rfl, fun _ => by cases mem <;> rfl, fun _ => by cases mem <;> rfl,
      fun _ => by cases mem <;> rfl⟩ hrest

/-- A status word (R220). -/
theorem status {st : StatusFields} (hrest : Runs n ws (passed (statusPath st) s) t) :
    Runs (n + 1) (.mcFlagsWb st :: ws) s t :=
  pass (fun _ => rfl) ⟨fun _ => rfl, fun _ => by rw [statusPath_eq], fun _ => by rw [statusPath_eq],
    fun _ => by rw [statusPath_eq]⟩ hrest

/-- A status word and a halt word end the run. -/
theorem written {st : StatusFields} :
    Runs 2 (.mcFlagsWb st :: haltWord :: ws) s (Machine.written st s) :=
  status (halt _ _)

/-- A shift word (R192, R193). -/
theorem shift {d : Shift} {v : Word → Bool → Buffer}
    (hexec : ∀ s, exec (shiftWord d) s = .next (shiftEffect v s))
    (hrest : Runs n ws (passed (shiftEffect v) s) t) : Runs (n + 1) (shiftWord d :: ws) s t :=
  pass hexec ⟨fun _ => rfl, fun _ => rfl, fun _ => rfl, fun _ => rfl⟩ hrest

/-- An I/O word (R227). -/
theorem io {conn rdy di ei : Bool} (hexec : ∀ s, exec i s = .next (ioPath conn rdy di ei s))
    (hrest : Runs n ws (passed (ioPath conn rdy di ei) s) t) : Runs (n + 1) (i :: ws) s t :=
  pass hexec (passes_ioPath conn rdy di ei) hrest

/-- A control word whose tested bit differs from CMP passes on (R250). -/
theorem noJump {cmp : Bool} {reg : CtrlReg} {bit : BitVec 4} {target : MicroAddr}
    (hbit : (controlOperand reg s).getLsbD bit.toNat = !cmp)
    (hrest : Runs n ws (passed (State.returning · .success) s) t) :
    Runs (n + 1) (.mcCtrl cmp reg bit target :: ws) s t := by
  intro h
  have hne : (controlOperand reg (fetched s)).getLsbD bit.toNat ≠ cmp := by
    cases reg <;> exact fun he => Bool.not_ne_self cmp (hbit.symm.trans he)
  have hexec : exec (.mcCtrl cmp reg bit target) (fetched s) = .next ((fetched s).returning .success) :=
    congrArg Host.Outcome.next (if_neg hne)
  exact haltsIn_succ (h.step hexec) h.1 (hrest ((h.drop 1).congr rfl rfl h.1)) rfl

/-- A control word whose tested bit is CMP jumps: the words from its target on come next (R250). -/
theorem jump {cmp : Bool} {reg : CtrlReg} {bit : BitVec 4} {target : MicroAddr} (k : Nat)
    (htarget : target = s.mpc + BitVec.ofNat 8 k)
    (hbit : (controlOperand reg s).getLsbD bit.toNat = cmp)
    (hrest : Runs n ((Instr.mcCtrl cmp reg bit target :: ws).drop k) (jumped target s) t) :
    Runs (n + 1) (.mcCtrl cmp reg bit target :: ws) s t := by
  intro h
  have heq : (controlOperand reg (fetched s)).getLsbD bit.toNat = cmp := by cases reg <;> exact hbit
  have hexec : exec (.mcCtrl cmp reg bit target) (fetched s) = .next (jumped target s) :=
    congrArg Host.Outcome.next (if_pos heq)
  exact haltsIn_succ (h.step hexec) h.1 (hrest ((h.drop k).congr rfl htarget h.1)) rfl

/-- A macro instruction answers the state in which its microprogram halts (log 6). -/
theorem exec_eq (h : Runs n ws (placeMacro (encode i) s) t) (hs : Holds ws s)
    (hi : i.level = .visible := by rfl) (hn : n ≤ Config.macroFuel := by decide) :
    exec i s = .next t := by
  rw [exec_of_level_visible hi]
  exact runMacro_of_haltsIn (h (hs.congr rfl rfl hs.1)) hn

end Runs

/-! ## The fields of the state after a word

Each update below is written out in the operations of the state, whose field lemmas then say what every
register, cell and flag holds. -/

section

variable (s : State)

@[simp] theorem State.setMcr_brLow (w : Word) : (s.setMcr w).brLow = s.brLow := rfl

@[simp] theorem State.setMcr_brCarry (w : Word) : (s.setMcr w).brCarry = s.brCarry := rfl

@[simp] theorem fetched_eq : fetched s = s.setMcr (fetchWord s) := rfl

@[simp] theorem placeMacro_eq (w : Word) : placeMacro w s = s.setGenWord s.cc w := rfl

@[simp] theorem haltPath_eq : haltPath s = s.returning .halted := rfl

@[simp] theorem afterAccess_none : afterAccess .none s = s := rfl

@[simp] theorem afterAccess_read : afterAccess .read s = s.setDr (s.genWord s.ar) := rfl

@[simp] theorem afterAccess_write : afterAccess .write s = s.setGenWord s.ar s.dr := rfl

@[simp] theorem leftOperand_none : leftOperand .none s = 0#16 := rfl

@[simp] theorem leftOperand_a : leftOperand .a s = s.a := rfl

@[simp] theorem leftOperand_cr : leftOperand .cr s = s.cr := rfl

@[simp] theorem rightOperand_none : rightOperand .none s = 0#16 := rfl

@[simp] theorem rightOperand_dr : rightOperand .dr s = s.dr := rfl

@[simp] theorem rightOperand_cc : rightOperand .cc s = s.cc.setWidth 16 := rfl

@[simp] theorem complementLeft_none (l : Word) : complementLeft .none l = l := rfl

@[simp] theorem complementLeft_left (l : Word) : complementLeft .left l = ~~~l := rfl

@[simp] theorem complementLeft_right (l : Word) : complementLeft .right l = l := rfl

@[simp] theorem complementRight_none (r : Word) : complementRight .none r = r := rfl

@[simp] theorem complementRight_left (r : Word) : complementRight .left r = r := rfl

@[simp] theorem complementRight_right (r : Word) : complementRight .right r = ~~~r := rfl

@[simp] theorem statusPath_none (c : CarrySel) (zn : ZnSel) :
    statusPath ⟨c, zn, .none⟩ s = (updateZn zn (updateCarry c s)).returning .success := rfl

@[simp] theorem statusPath_a (c : CarrySel) (zn : ZnSel) :
    statusPath ⟨c, zn, .a⟩ s = ((updateZn zn (updateCarry c s)).setA s.brLow).returning .success := by
  rw [← flagsUpdated_brLow ⟨c, zn, .a⟩ s]
  rfl

@[simp] theorem statusPath_cc (c : CarrySel) (zn : ZnSel) :
    statusPath ⟨c, zn, .cc⟩ s = ((updateZn zn (updateCarry c s)).setCc s.brLow).returning .success := by
  rw [← flagsUpdated_brLow ⟨c, zn, .cc⟩ s]
  rfl

@[simp] theorem statusPath_dr (c : CarrySel) (zn : ZnSel) :
    statusPath ⟨c, zn, .dr⟩ s = ((updateZn zn (updateCarry c s)).setDr s.brLow).returning .success := by
  rw [← flagsUpdated_brLow ⟨c, zn, .dr⟩ s]
  rfl

@[simp] theorem updateCarry_keep : updateCarry .keep s = s := rfl

@[simp] theorem updateCarry_fromBuffer :
    updateCarry .fromBuffer s = (s.setFlag .carry s.brCarry).setBr (s.brLow.setWidth 17) := rfl

@[simp] theorem updateCarry_clear : updateCarry .clear s = s.setFlag .carry false := rfl

@[simp] theorem updateCarry_set : updateCarry .set s = s.setFlag .carry true := rfl

@[simp] theorem updateZn_none : updateZn .none s = s := rfl

@[simp] theorem updateZn_both :
    updateZn .both s =
      (s.setFlag .zero (s.brLow == 0#16)).setFlag .negative (s.brLow.getLsbD 15) := rfl

@[simp] theorem ioPath_connect :
    ioPath true false false false s = (connect s).returning .success := rfl

@[simp] theorem ioPath_di :
    ioPath false false true false s =
      (s.setFlag .interruptsAllowed false).returning .success := rfl

@[simp] theorem ioPath_ei :
    ioPath false false false true s =
      (s.setFlag .interruptsAllowed true).returning .success := rfl

end

end Sys2Proof.Machine

/-! PROOF. The values of BR as numbers (spec/10_state.md R11, R26): ALU results and shifts, and what the
status path takes from BR. -/

namespace Sys2Proof.Machine

open Spec

/-! ## What BR is given (R192, R193, R198) -/

/-- The ALU is exact: 17 bits hold every result of two words (R198, R199). -/
@[simp] theorem toNat_aluResult (op : AluOp) (l r : Word) :
    (aluResult op l r).toNat = aluValue op l.toNat r.toNat := by
  have hl := l.isLt
  have hr := r.isLt
  have hand : l.toNat &&& r.toNat ≤ l.toNat := Nat.and_le_left
  cases op <;> simp only [aluResult, aluValue, BitVec.toNat_ofNat, BitVec.toNat_setWidth,
    BitVec.toNat_and] <;> exact Nat.mod_eq_of_lt (by omega)

/-- A shift to the left, the carry coming in at bit 0 (R192). -/
@[simp] theorem toNat_shiftLeft (a : Word) (c : Bool) :
    (shiftLeft a c).toNat = a.toNat * 2 + c.toNat := by
  have ha : (a.setWidth 17 <<< 1).toNat = 2 ^ 1 * a.toNat := by
    have := a.isLt
    simp only [BitVec.toNat_shiftLeft, BitVec.toNat_setWidth, Nat.shiftLeft_eq]
    omega
  have hc : ((BitVec.ofBool c).setWidth 17).toNat = c.toNat := by cases c <;> rfl
  rw [shiftLeft, BitVec.toNat_or, ha, hc, ← Nat.two_pow_add_eq_or_of_lt c.toNat_lt]
  omega

/-- A shift to the right, the carry coming in at bit 15 and bit 0 going out to bit 16 (R193). -/
@[simp] theorem toNat_shiftRight (a : Word) (c : Bool) :
    (shiftRight a c).toNat = a.toNat % 2 * 65536 + c.toNat * 32768 + a.toNat / 2 := by
  have hlt := a.isLt
  have hcarry : c.toNat < 2 := c.toNat_lt
  have ha : ((a.setWidth 17) >>> 1).toNat = a.toNat / 2 := by
    simp only [BitVec.toNat_ushiftRight, BitVec.toNat_setWidth, Nat.shiftRight_eq_div_pow]
    omega
  have hc : ((BitVec.ofBool c).setWidth 17 <<< 15).toNat = 2 ^ 15 * c.toNat := by cases c <;> rfl
  have hout : ((BitVec.ofBool (a.getLsbD 0)).setWidth 17 <<< 16).toNat = 2 ^ 16 * (a.toNat % 2) := by
    have hbit : a.getLsbD 0 = decide (a.toNat % 2 = 1) := Nat.testBit_zero _
    rcases Nat.mod_two_eq_zero_or_one a.toNat with h | h <;> rw [hbit, h] <;> rfl
  have h15 : a.toNat / 2 < 2 ^ 15 := by omega
  have h16 : 2 ^ 15 * c.toNat + a.toNat / 2 < 2 ^ 16 := by omega
  rw [shiftRight, BitVec.toNat_or, BitVec.toNat_or, ha, hc, hout, Nat.or_assoc,
    ← Nat.two_pow_add_eq_or_of_lt h15, ← Nat.two_pow_add_eq_or_of_lt h16]
  omega

/-! ## What the status path takes from BR (R224 to R226) -/

theorem brCarry_eq (s : State) : s.brCarry = s.br.toNat.testBit 16 := rfl

theorem toNat_brLow (s : State) : s.brLow.toNat = s.br.toNat % 65536 :=
  BitVec.toNat_setWidth ..

theorem brLow_eq_zero (s : State) : (s.brLow == 0#16) = decide (s.br.toNat % 65536 = 0) := by
  rw [Bool.beq_eq_decide_eq, ← toNat_brLow]
  exact decide_eq_decide.2 BitVec.toNat_inj.symm

theorem brLow_bit15 (s : State) : s.brLow.getLsbD 15 = s.br.toNat.testBit 15 :=
  BitVec.getLsbD_setWidth ..

/-- The status path with write-back to A and carry from BR, on the numbers (R224, R226): it rotates what
a shift has left in BR. -/
theorem statusPath_fromBuffer_a (zn : ZnSel) (s : State) :
    (statusPath ⟨.fromBuffer, zn, .a⟩ s).a.toNat = s.br.toNat % 65536 ∧
    (statusPath ⟨.fromBuffer, zn, .a⟩ s).flag .carry = s.br.toNat.testBit 16 := by
  constructor
  · rw [statusPath_eq]
    exact toNat_brLow s
  · simp [statusPath, flagsUpdated, brCarry_eq]

/-- The low 16 bits of a shift to the left are the rotated word and bit 16 the bit out (R162). -/
theorem shiftLeft_rotates (a : Word) (c : Bool) :
    (shiftLeft a c).toNat % 65536 = a.toNat % 32768 * 2 + c.toNat ∧
    (shiftLeft a c).toNat.testBit 16 = a.toNat.testBit 15 := by
  have ha := a.isLt
  have hc : c.toNat < 2 := c.toNat_lt
  rw [toNat_shiftLeft, Nat.testBit_eq_decide_div_mod_eq, Nat.testBit_eq_decide_div_mod_eq,
    decide_eq_decide]
  omega

/-- The low 16 bits of a shift to the right are the rotated word and bit 16 the bit out (R163). -/
theorem shiftRight_rotates (a : Word) (c : Bool) :
    (shiftRight a c).toNat % 65536 = c.toNat * 32768 + a.toNat / 2 ∧
    (shiftRight a c).toNat.testBit 16 = a.toNat.testBit 0 := by
  have ha := a.isLt
  have hc : c.toNat < 2 := c.toNat_lt
  rw [toNat_shiftRight, Nat.testBit_eq_decide_div_mod_eq, Nat.testBit_eq_decide_div_mod_eq,
    decide_eq_decide]
  omega

end Sys2Proof.Machine

namespace Sys2Proof

open Machine

/-- Settles O42: the status path takes A and C from BR, where the shift has put the rotated word. -/
theorem shiftThenCarryRotates : Obligations.ShiftThenCarryRotates := by
  intro zn s
  constructor
  · obtain ⟨ha, hcarry⟩ := statusPath_fromBuffer_a zn (shiftEffect shiftLeft s)
    obtain ⟨hlow, hout⟩ := shiftLeft_rotates s.a (s.flag .carry)
    exact ⟨_, _, rfl, rfl, ha.trans hlow, hcarry.trans hout⟩
  · obtain ⟨ha, hcarry⟩ := statusPath_fromBuffer_a zn (shiftEffect shiftRight s)
    obtain ⟨hlow, hout⟩ := shiftRight_rotates s.a (s.flag .carry)
    exact ⟨_, _, rfl, rfl, ha.trans hlow, hcarry.trans hout⟩

end Sys2Proof

/-! PROOF. The effect lines on A, C, SR bit 4 and CC (spec/40_macro_decoder.md R150 to R154, R156 to R167)
from the microwords that carry them out (log 6): the rules give the state in which the macro step halts, and
the value BR holds before the last status word gives what that state holds. -/

namespace Sys2Proof.Machine

open Spec

/-! ## What a run leaves -/

/-- The macro instruction's own word is the one cell that differs where nothing is stored. -/
theorem onlyWordPlaced_of_gen_eq {i : Instr} {s t : State} (hwf : genWf s.gen = true)
    (hgen : t.gen = (placeMacro (encode i) s).gen) : OnlyWordPlaced i s t := by
  intro j
  show genLookup t.gen j.toNat = _
  rw [hgen]
  exact genWord_setGenWord s.cc j (encode i) hwf

/-- What the end of every macro step here keeps: the registers and host's fields that no effect line
names; the outcome is Halted (R263). -/
structure EndsKeeping (s t : State) : Prop where
  ar : t.ar = s.ar
  cr : t.cr = s.cr
  micro : t.micro = s.micro
  log : t.log = s.log
  faultMark : t.faultMark = s.faultMark
  outcome : t.outcome = some .halted

/-- The frame as one equation. -/
theorem EndsKeeping.eq {s t : State} (h : EndsKeeping s t) :
    t = { s with a := t.a, cc := t.cc, mpc := t.mpc, sr := t.sr, br := t.br, dr := t.dr, mcr := t.mcr,
                 gen := t.gen, devices := t.devices, outcome := some .halted } := by
  obtain ⟨har, hcr, hmicro, hlog, hmark, houtcome⟩ := h
  rw [← har, ← hcr, ← hmicro, ← hlog, ← hmark, ← houtcome]

/-- What a run leaves that stores nothing and changes no device. -/
theorem leaves_of_runs {n : Nat} {i : Instr} {ws : List Instr} {s t : State} {a cc : Nat}
    {flags : Flag → Bool} (hwf : genWf s.gen = true) (hs : Holds ws s)
    (hruns : Runs n ws (placeMacro (encode i) s) t) (ha : t.a.toNat = a)
    (hflags : ∀ f, t.flag f = flags f) (hcc : t.cc.toNat = cc)
    (hkeeps : EndsKeeping s t := by constructor <;> simp) (hdr : t.dr = s.dr := by simp)
    (hdevices : t.devices = s.devices := by simp)
    (hgen : t.gen = (placeMacro (encode i) s).gen := by simp)
    (hi : i.level = .visible := by rfl) (hn : n ≤ Config.macroFuel := by decide) :
    Leaves i a flags cc s :=
  ⟨t, hruns.exec_eq hs hi hn, ha, hflags, hcc, onlyWordPlaced_of_gen_eq hwf hgen,
    hkeeps.eq.trans (by rw [hdr, hdevices])⟩

/-! ## A, C and SR bit 4 (R156 to R167) -/

/-- The rotates: a shift, and carry selector 01 with write-back to A (R162, R163). -/
theorem leaves_rotate {i : Instr} {d : Shift} {v : Word → Bool → Buffer} {s : State} {a : Nat}
    {out : Bool} (hwf : genWf s.gen = true)
    (hs : Holds [shiftWord d, .mcFlagsWb ⟨.fromBuffer, .none, .a⟩, haltWord] s)
    (hexec : ∀ s, exec (shiftWord d) s = .next (shiftEffect v s))
    (hlow : (v s.a (s.flag .carry)).toNat % 65536 = a)
    (hout : (v s.a (s.flag .carry)).toNat.testBit 16 = out)
    (hi : i.level = .visible) : Leaves i a (withFlag .carry out s) s.cc.toNat s := by
  refine leaves_of_runs hwf hs (.shift hexec .written) ?_ ?_ ?_ (hi := hi)
  · simp [State.brLow, hlow]
  · intro f
    simp [withFlag, brCarry_eq, hout]
  · simp

/-- CMA: the one's complement of A through BR (R160). -/
theorem leaves_cma {s : State} (hwf : genWf s.gen = true)
    (hs : Holds [aluWord .a .none .left .sum .none, .mcFlagsWb ⟨.keep, .none, .a⟩, haltWord] s) :
    Leaves .cma (65535 - s.a.toNat) s.flag s.cc.toNat s := by
  have hlt : 65535 - s.a.toNat < 65536 := by omega
  exact leaves_of_runs hwf hs (.alu .written) (by simpa [State.brLow, aluValue] using hlt) (by simp)
    (by simp)

/-- The bit of SR a control word tests is the flag (R36, R251). -/
theorem controlOperand_sr (f : Flag) (s : State) :
    (controlOperand .sr s).getLsbD (flagBit f) = s.flag f := by
  have hbit := flagBit_lt f
  show (s.sr.setWidth 16).getLsbD (flagBit f) = s.sr.getLsbD (flagBit f)
  rw [BitVec.getLsbD_setWidth, decide_eq_true (by omega), Bool.true_and]

/-- CMC: a jump on C to the word that clears it, past the word that sets it (R161). -/
theorem leaves_cmc {s : State} (hwf : genWf s.gen = true)
    (hs : Holds [.mcCtrl true .sr 0#4 (s.mpc + 3#8), .mcFlagsWb ⟨.set, .none, .none⟩, haltWord,
      .mcFlagsWb ⟨.clear, .none, .none⟩, haltWord] s) :
    Leaves .cmc s.a.toNat (withFlag .carry (!s.flag .carry) s) s.cc.toNat s := by
  have hbit : (controlOperand .sr (placeMacro (encode .cmc) s)).getLsbD (0#4 : BitVec 4).toNat =
    s.flag .carry := controlOperand_sr .carry s
  cases hc : s.flag .carry
  · exact leaves_of_runs hwf hs (.noJump (hbit.trans hc) .written) (by simp)
      (by simp [withFlag]) (by simp)
  · exact leaves_of_runs hwf hs (.jump 3 rfl (hbit.trans hc) .written) (by simp)
      (by simp [withFlag]) (by simp)

/-! ## Branches (R150 to R154) -/

/-- BR: CC gets the low bits of CR through BR (R154). -/
theorem leaves_br {x : Bool} {addr : GenAddr} {s : State} (hwf : genWf s.gen = true)
    (hs : Holds [aluWord .cr .none .none .sum .none, .mcFlagsWb ⟨.keep, .none, .cc⟩, haltWord] s) :
    Leaves (.br x addr) s.a.toNat s.flag (s.cr.toNat % 2048) s := by
  refine leaves_of_runs hwf hs (.alu .written) (by simp) (by simp) ?_
  simp [State.brLow, aluValue]

/-- A conditional branch: a jump on the flag past the words of BR (R150 to R153). -/
theorem leaves_branch {i : Instr} (f : Flag) {skipIf : Bool} {bit : BitVec 4} {s : State}
    (hwf : genWf s.gen = true)
    (hs : Holds [.mcCtrl skipIf .sr bit (s.mpc + 3#8), aluWord .cr .none .none .sum .none,
      .mcFlagsWb ⟨.keep, .none, .cc⟩, haltWord] s)
    (hi : i.level = .visible) (hbit : bit.toNat = flagBit f) :
    Leaves i s.a.toNat s.flag (if s.flag f = skipIf then s.cc.toNat else s.cr.toNat % 2048) s := by
  have htest : (controlOperand .sr (placeMacro (encode i) s)).getLsbD bit.toNat = s.flag f :=
    hbit ▸ controlOperand_sr f s
  split
  · next hjump =>
    exact leaves_of_runs hwf hs (.jump 3 rfl (htest.trans hjump) (.halt _ _)) (by simp) (by simp)
      (by simp) (hi := hi)
  · next hpass =>
    exact leaves_of_runs hwf hs (.noJump (htest.trans (Bool.eq_not_of_ne hpass)) (.alu .written))
      (by simp) (by simp) (by simp [State.brLow, aluValue]) (hi := hi)

end Sys2Proof.Machine

namespace Sys2Proof

open Machine Spec

/-- Settles O39: a rule for each word of the microprogram; BR holds the new A where A is written. -/
theorem macroAccumulatorThroughMicrowords : Obligations.MacroAccumulatorThroughMicrowords := by
  intro s hwf
  refine ⟨fun h => ⟨?_, ?_⟩, fun h => ?_, fun h => ?_, leaves_cma hwf, leaves_cmc hwf, fun h => ?_,
    fun h => ?_, fun st h => ?_, fun st h => ?_⟩
  · exact leaves_of_runs hwf h (.halt _ _) (by simp) (by simp) (by simp)
  · exact leaves_of_runs hwf h (.halt _ _) (by simp) (by simp) (by simp)
  · exact leaves_of_runs hwf h (.alu .written) (by simp [State.brLow, aluValue]) (by simp) (by simp)
  · exact leaves_of_runs hwf h .written (by simp) (by simp [withFlag]) (by simp)
  · obtain ⟨hlow, hout⟩ := shiftLeft_rotates s.a (s.flag .carry)
    exact leaves_rotate hwf h (fun _ => rfl) hlow hout rfl
  · obtain ⟨hlow, hout⟩ := shiftRight_rotates s.a (s.flag .carry)
    exact leaves_rotate hwf h (fun _ => rfl) hlow hout rfl
  · exact leaves_of_runs hwf h (.io (fun _ => rfl) (.halt _ _)) (by simp) (by simp [withFlag])
      (by simp)
  · exact leaves_of_runs hwf h (.io (fun _ => rfl) (.halt _ _)) (by simp) (by simp [withFlag])
      (by simp)

/-- Settles O40: the four conditional branches are one microprogram on the flag they test. -/
theorem macroBranchesThroughMicrowords : Obligations.MacroBranchesThroughMicrowords := by
  intro x addr s hwf
  refine ⟨leaves_br hwf, fun skipIf bit h => ⟨?_, ?_, ?_, ?_⟩⟩ <;> rintro rfl rfl
  · simpa [← Bool.not_eq_true] using leaves_branch .carry hwf h rfl rfl
  · exact leaves_branch .negative hwf h rfl rfl
  · simpa [← Bool.not_eq_true] using leaves_branch .negative hwf h rfl rfl
  · simpa [← Bool.not_eq_true] using leaves_branch .zero hwf h rfl rfl

end Sys2Proof

/-! PROOF. The arithmetic effect lines (spec/40_macro_decoder.md R144, R147 to R149, R164, R165) from the
microwords that carry them out (log 6): BR holds the 17-bit result, from which the status word takes A,
C, Z and N. -/

namespace Sys2Proof.Machine

open Spec

/-- The operand word the microprogram reads at AR (R63). -/
theorem toNat_genWord_placed {i : Instr} {s : State} (hwf : genWf s.gen = true) :
    ((s.setGenWord s.cc (encode i)).genWord s.ar).toNat = cellAtAr i s := by
  rw [genWord_setGenWord _ _ _ hwf, cellAtAr]
  split <;> rfl

/-- C after a status word whose selector is `c`, where BR holds `sum` (R224). -/
def carryAfter (c : CarrySel) (sum : Nat) (s : State) : Bool :=
  match c with
  | .keep => s.flag .carry
  | .fromBuffer => sum.testBit 16
  | .clear => false
  | .set => true

/-- A microprogram that ends in a write-back to A with Z and N, where BR holds the result (R224 to
R226). -/
theorem arithmetic_of_runs {n : Nat} {i : Instr} {ws : List Instr} {s u : State} {c : CarrySel}
    {sum : Nat} (hwf : genWf s.gen = true) (hs : Holds ws s)
    (hruns : Runs n ws (placeMacro (encode i) s) (written ⟨c, .both, .a⟩ u))
    (hsum : u.br.toNat = sum) (hflags : ∀ f, u.flag f = s.flag f := by simp)
    (hkeeps : EndsKeeping s (written ⟨c, .both, .a⟩ u) := by constructor <;> simp)
    (hcc : (written ⟨c, .both, .a⟩ u).cc = s.cc := by simp)
    (hdevices : (written ⟨c, .both, .a⟩ u).devices = s.devices := by simp)
    (hgen : (written ⟨c, .both, .a⟩ u).gen = (placeMacro (encode i) s).gen := by simp)
    (hi : i.level = .visible := by rfl) (hn : n ≤ Config.macroFuel := by decide) :
    Arithmetic i sum (carryAfter c sum s) s := by
  subst hsum
  have hzero := brLow_eq_zero u
  have hnegative := brLow_bit15 u
  refine ⟨_, hruns.exec_eq hs hi hn, ?_, ?_, ?_, ?_, fun f hc hz hn => ?_,
    onlyWordPlaced_of_gen_eq hwf hgen, hkeeps.eq.trans (by rw [hcc, hdevices])⟩
  · simp [State.brLow]
  · cases c <;> simp [carryAfter, brCarry_eq, hflags]
  · simp [hzero]
  · simpa using hnegative
  · simp [hc, hz, hn, hflags]

/-- ADC: a jump without C past the word that adds one more (R148). -/
theorem arithmetic_adc {x : Bool} {addr : GenAddr} {s : State} (hwf : genWf s.gen = true)
    (hs : Holds [aluWord .a .dr .none .sum .read, .mcCtrl false .sr 0#4 (s.mpc + 3#8),
        aluWord .a .dr .none .sumPlusOne .none, .mcFlagsWb ⟨.fromBuffer, .both, .a⟩, haltWord] s)
    {sum : Nat} (hsum : sum = s.a.toNat + cellAtAr (.adc x addr) s + (s.flag .carry).toNat) :
    Arithmetic (.adc x addr) sum (sum.testBit 16) s := by
  have hread := toNat_genWord_placed (i := .adc x addr) hwf
  have htest (u : State) (hu : u.flag .carry = s.flag .carry) :
      (controlOperand .sr u).getLsbD (0#4 : BitVec 4).toNat = s.flag .carry :=
    (controlOperand_sr .carry u).trans hu
  cases hc : s.flag .carry <;> rw [hc] at htest
  · exact arithmetic_of_runs hwf hs
      (.alu (.jump 2 (by simp [BitVec.add_assoc]) (htest _ (by simp [hc])) .written))
      (by simp [aluValue, hread, hsum, hc])
  · exact arithmetic_of_runs hwf hs
      (.alu (.noJump (htest _ (by simp [hc])) (.alu .written)))
      (by simp [aluValue, hread, hsum, hc])

end Sys2Proof.Machine

namespace Sys2Proof

open Machine Spec

/-- Settles O38: the microprograms but ADC's are one ALU word, which leaves the result in BR, and the
status word that takes it to A. -/
theorem macroArithmeticThroughMicrowords : Obligations.MacroArithmeticThroughMicrowords := by
  intro x addr s hwf
  have hread (i : Instr) := toNat_genWord_placed (i := i) hwf
  refine ⟨fun h => ?_, fun sum hsum h => ?_, fun sum hsum h => arithmetic_adc hwf h hsum,
    fun sum hsum h => ?_, fun sum hsum h => ?_, fun sum hsum h => ?_⟩
  · exact arithmetic_of_runs hwf h (.alu .written) (by simp [aluValue, hread])
  · exact arithmetic_of_runs hwf h (.alu .written) (by simp [aluValue, hread, hsum])
  · exact arithmetic_of_runs hwf h (.alu .written) (by simp [aluValue, hread, hsum])
  · exact arithmetic_of_runs hwf h (.alu .written) (by simp [aluValue, hsum])
  · exact arithmetic_of_runs hwf h (.alu .written) (by simp [aluValue, hsum])

end Sys2Proof

/-! PROOF. The storing effect lines (spec/40_macro_decoder.md R143, R145, R146) from the microwords that
carry them out (log 6): the last store of the run is that of DR in the cell at AR. -/

namespace Sys2Proof.Machine

open Spec

/-- A microprogram whose one store is that of `v` in the cell at AR, over the macro instruction's own
word if that stands there. -/
theorem stores_of_runs {n : Nat} {i : Instr} {ws : List Instr} {s t : State} {v : Word}
    {val cc : Nat} (hwf : genWf s.gen = true) (hs : Holds ws s)
    (hruns : Runs n ws (placeMacro (encode i) s) t) (hval : v.toNat = val)
    (hgen : t.gen = ((placeMacro (encode i) s).setGenWord s.ar v).gen) (hcc : t.cc.toNat = cc)
    (hkeeps : EndsKeeping s t := by constructor <;> simp) (ha : t.a = s.a := by simp)
    (hsr : t.sr = s.sr := by simp) (hdevices : t.devices = s.devices := by simp)
    (hi : i.level = .visible := by rfl) (hn : n ≤ Config.macroFuel := by decide) :
    Stores i val cc s := by
  have hplaced : genWf (placeMacro (encode i) s).gen = true := genWf_genStore hwf (genAddr_lt s.cc)
  have hcell (j : GenAddr) : t.genWord j =
      if j = s.ar then v else if j = s.cc then encode i else s.genWord j := by
    show genLookup t.gen j.toNat = _
    rw [hgen, ← genWord_setGenWord s.cc j (encode i) hwf]
    exact genWord_setGenWord s.ar j v hplaced
  refine ⟨t, hruns.exec_eq hs hi hn, hcc, ?_, fun j hj => ?_,
    hkeeps.eq.trans (by rw [ha, hsr, hdevices])⟩
  · rw [hcell, if_pos rfl, hval]
  · rw [hcell, if_neg hj]

/-- The low word of a sum (R26, R199). -/
theorem setWidth_aluResult_sum (l r : Word) : (aluResult .sum l r).setWidth 16 = l + r := by
  apply BitVec.eq_of_toNat_eq
  rw [BitVec.toNat_setWidth, toNat_aluResult, BitVec.toNat_add]
  rfl

/-- The low word of a sum plus one (R26, R199). -/
theorem setWidth_aluResult_sumPlusOne (l r : Word) :
    (aluResult .sumPlusOne l r).setWidth 16 = l + r + 1#16 := by
  apply BitVec.eq_of_toNat_eq
  rw [BitVec.toNat_setWidth, toNat_aluResult, BitVec.toNat_add, BitVec.toNat_add, Nat.mod_add_mod]
  rfl

/-- MOV: A to DR through BR, then the store (R146). -/
theorem stores_mov {x : Bool} {addr : GenAddr} {s : State} (hwf : genWf s.gen = true)
    (hs : Holds [aluWord .a .none .none .sum .none, .mcFlagsWb ⟨.keep, .none, .dr⟩,
      aluWord .none .none .none .sum .write, haltWord] s) :
    Stores (.mov x addr) s.a.toNat s.cc.toNat s := by
  refine stores_of_runs hwf hs (.alu (.status (.alu (.halt _ _)))) rfl ?_ (by simp)
  simp [State.brLow, setWidth_aluResult_sum]

/-- JSR: CC to DR through BR, then the store and CR + 1 to CC (R145, R172). -/
theorem stores_jsr {x : Bool} {addr : GenAddr} {s : State} (hwf : genWf s.gen = true)
    (hs : Holds [aluWord .none .cc .none .sum .none, .mcFlagsWb ⟨.keep, .none, .dr⟩,
      aluWord .cr .none .none .sumPlusOne .write, .mcFlagsWb ⟨.keep, .none, .cc⟩, haltWord] s) :
    Stores (.jsr x addr) s.cc.toNat ((s.cr.toNat + 1) % 2048) s := by
  have hcc : (s.cc.setWidth 16 : Word).toNat = s.cc.toNat :=
    BitVec.toNat_setWidth_of_le (by omega)
  refine stores_of_runs hwf hs (.alu (.status (.alu .written))) hcc ?_ ?_
  · simp [State.brLow, setWidth_aluResult_sum]
  · simp [State.brLow, aluValue]

/-- The state of ISZ's microprogram after its store. -/
def iszStored (s : State) : State :=
  passed (aluEffect .none .none .none .sum .write)
    (passed (statusPath ⟨.keep, .none, .dr⟩) (passed (aluEffect .none .dr .none .sumPlusOne .none)
      (passed (aluEffect .none .none .none .sum .read) s)))

theorem iszStored_dr (s : State) : (iszStored s).dr = s.genWord s.ar + 1#16 := by
  simp [iszStored, State.brLow, setWidth_aluResult_sumPlusOne]

theorem iszStored_mpc (s : State) : (iszStored s).mpc = s.mpc + 4#8 := by
  simp [iszStored, BitVec.add_assoc]

/-- ISZ: the cell plus one to DR through BR, the store, and a jump on its sign past the words that
advance CC (R143). -/
theorem stores_isz {x : Bool} {addr : GenAddr} {s : State} (hwf : genWf s.gen = true)
    (hs : Holds [aluWord .none .none .none .sum .read, aluWord .none .dr .none .sumPlusOne .none,
      .mcFlagsWb ⟨.keep, .none, .dr⟩, aluWord .none .none .none .sum .write,
      .mcCtrl true .dr 15#4 (s.mpc + 7#8), aluWord .none .cc .none .sumPlusOne .none,
      .mcFlagsWb ⟨.keep, .none, .cc⟩, haltWord] s)
    {v : Nat} (hv : v = (cellAtAr (.isz x addr) s + 1) % 65536) :
    Stores (.isz x addr) v (if v.testBit 15 then s.cc.toNat else (s.cc.toNat + 1) % 2048) s := by
  have hstored : ((placeMacro (encode (.isz x addr)) s).genWord s.ar + 1#16).toNat = v := by
    rw [hv, ← toNat_genWord_placed hwf]
    exact BitVec.toNat_add ..
  have hbit : (controlOperand .dr (iszStored (placeMacro (encode (.isz x addr)) s))).getLsbD
      (15#4 : BitVec 4).toNat = v.testBit 15 := by
    rw [controlOperand, iszStored_dr, ← hstored]
    rfl
  have htarget : s.mpc + 7#8 = (iszStored (placeMacro (encode (.isz x addr)) s)).mpc + 3#8 := by
    simp [iszStored_mpc, BitVec.add_assoc]
  split
  · next hjump =>
    refine stores_of_runs hwf hs
      (.alu (.alu (.status (.alu (.jump 3 htarget (hbit.trans hjump) (.halt _ _)))))) hstored ?_ (by simp)
    simp [State.brLow, setWidth_aluResult_sumPlusOne]
  · next hpass =>
    refine stores_of_runs hwf hs
      (.alu (.alu (.status (.alu (.noJump (hbit.trans (Bool.eq_not_of_ne hpass))
        (.alu .written)))))) hstored ?_ ?_
    · simp [State.brLow, setWidth_aluResult_sumPlusOne]
    · have hcc : s.cc.toNat % 65536 = s.cc.toNat := Nat.mod_eq_of_lt (by have := s.cc.isLt; omega)
      simp [State.brLow, aluValue, hcc]

end Sys2Proof.Machine

namespace Sys2Proof

open Machine Spec

/-- Settles O41: in each microprogram the word stored is the one that the first status word takes from BR
to DR. -/
theorem macroStoresThroughMicrowords : Obligations.MacroStoresThroughMicrowords := by
  intro x addr s hwf
  exact ⟨fun v hv h => stores_isz hwf h hv, stores_jsr hwf, stores_mov hwf⟩

end Sys2Proof

/-! PROOF. The I/O effect lines (spec/40_macro_decoder.md R168 to R171): with DR = CR = the macro word,
connect is the I/O protocol, whose case is the row of the word and whose device is its operand (R280). -/

namespace Sys2Proof.Machine

open Spec

/-! ## The case of the protocol by the macro word (R280) -/

/-- The bits of an I/O row's word that the protocol looks at are those of the row's mask. -/
theorem deviceWord_and_selector {m : Mnemonic} (hk : m.kind = .io) (dev : DevIndex) :
    deviceWord m dev &&& 0x0300#16 = m.mask &&& 0x0300#16 ∧
    deviceWord m dev &&& 0x0200#16 = m.mask &&& 0x0200#16 ∧
    deviceWord m dev &&& 0x0100#16 = m.mask &&& 0x0100#16 := by
  revert dev hk
  cases m <;> decide

/-- The effect of an I/O row on its device (R281 to R284). -/
def ioEffect (m : Mnemonic) (dev : DevIndex) (s : State) : State :=
  match m with
  | .OUT => ioOut dev s
  | .IN => ioIn dev s
  | .TSF => ioTest dev s
  | _ => ioClear dev s

/-- The effect of an I/O row writes A, CC, SR and devices at most. -/
theorem ioEffect_eq (m : Mnemonic) (dev : DevIndex) (s : State) :
    ioEffect m dev s =
      { s with
        a := (ioEffect m dev s).a
        cc := (ioEffect m dev s).cc
        sr := (ioEffect m dev s).sr
        devices := (ioEffect m dev s).devices } := by
  cases m
  case TSF =>
    simp only [ioEffect, ioTest]
    split <;> rfl
  all_goals rfl

/-- The effect of an I/O row reads neither general memory nor MCR. -/
theorem ioEffect_fetched_placeMacro (m : Mnemonic) (dev : DevIndex) (w : Word) (s : State) :
    ioEffect m dev (fetched (placeMacro w s)) =
      ((ioEffect m dev s).setGenWord s.cc w).setMcr (fetchWord (placeMacro w s)) := by
  cases m
  case TSF =>
    have hdevice : (fetched (placeMacro w s)).device dev = s.device dev := rfl
    simp only [ioEffect, ioTest, hdevice]
    split <;> rfl
  all_goals rfl

/-- The protocol serves the row of the macro word in DR on its device. -/
theorem ioCase_deviceWord {m : Mnemonic} (hk : m.kind = .io) {dev : DevIndex} {s : State}
    (hdr : s.dr = deviceWord m dev) : ioCase s = ioEffect m dev s := by
  have hdev : ioDevice s = dev := by rw [ioDevice, hdr, deviceWord_operand hk]
  obtain ⟨h3, h2, h1⟩ := deviceWord_and_selector hk dev
  unfold ioCase
  rw [hdr, hdev, h3, h2, h1]
  cases m <;> cases hk <;> rfl

/-- The micro-step of a connect word for an I/O row: its effect, and SR bit 12 cleared (R285). -/
def ioServe (m : Mnemonic) (dev : DevIndex) (s : State) : State :=
  ((ioEffect m dev s).setFlag .ioActive false).returning .success

/-- A connect word serves the row of the macro word in DR and CR (R230). -/
theorem passed_connect {m : Mnemonic} (hk : m.kind = .io) {dev : DevIndex} {s : State}
    (hdr : s.dr = deviceWord m dev) (hcr : s.cr = deviceWord m dev) :
    passed (ioPath true false false false) s = passed (ioServe m dev) s := by
  have hprotocol : connect (fetched s) = ioProtocol (fetched s) := if_pos (hdr.trans hcr.symm)
  have hcase : ioCase (fetched s) = ioEffect m dev (fetched s) := ioCase_deviceWord hk hdr
  rw [passed, ioPath_connect, hprotocol, ioProtocol, hcase]
  rfl

/-- MICRO holds the connect word and the halt word (R168 to R171). -/
theorem holds_of_atConnect {w : Word} {s : State} (h : AtConnect w s) :
    ∃ st io st', Holds [.mcIoConn false false false st, .mcHalt io st'] s := by
  obtain ⟨hmark, -, -, ⟨st, hconn⟩, io, st', hhalt⟩ := h
  refine ⟨st, io, st', hmark, fun k hk => ?_⟩
  match k, hk with
  | 0, _ => simp [hconn]
  | 1, _ => simp [hhalt]

/-- A macro instruction that stands at its connect word ends with its effect served. -/
theorem exec_of_atConnect {m : Mnemonic} (hk : m.kind = .io) {i : Instr} {dev : DevIndex}
    {s : State} (hencode : encode i = deviceWord m dev) (hi : i.level = .visible)
    (hs : AtConnect (encode i) s) :
    exec i s = .next (passed haltPath (passed (ioServe m dev) (placeMacro (encode i) s))) := by
  obtain ⟨st, io, st', hholds⟩ := holds_of_atConnect hs
  obtain ⟨-, hdr, hcr, -⟩ := hs
  have hconnect := passed_connect (s := placeMacro (encode i) s) hk (hdr.trans hencode)
    (hcr.trans hencode)
  rw [← hconnect]
  exact Runs.exec_eq (.io (fun _ => rfl) (.halt io st')) hholds hi

/-- What a state `t` holds after an I/O row served from `s`: the fields the row's effect can write as it
leaves them in `s`, SR bit 12 cleared, and the frame. -/
structure IoServed (m : Mnemonic) (dev : DevIndex) (i : Instr) (s t : State) : Prop where
  a : t.a = (ioEffect m dev s).a
  cc : t.cc = (ioEffect m dev s).cc
  devices : t.devices = (ioEffect m dev s).devices
  flag : ∀ f, t.flag f = if f = .ioActive then false else (ioEffect m dev s).flag f
  frame : t = { placeMacro (encode i) s with
    a := t.a, cc := t.cc, sr := t.sr, devices := t.devices, mpc := t.mpc, mcr := t.mcr,
    outcome := some .halted }

/-- A device after one of the array is changed (R281, R283). -/
theorem device_of_devices_eq {s t : State} {dev : DevIndex} (change : Device → Device)
    (h : t.devices = (s.setDevice dev (change (s.device dev))).devices) (d : DevIndex) :
    t.device d = if d = dev then change (s.device d) else s.device d := by
  have hd : t.device d = (s.setDevice dev (change (s.device dev))).device d := by
    simp only [State.device, h]
  rw [hd, device_setDevice]
  split
  · next hd => rw [hd]
  · rfl

/-- TSF copies the ready flag to SR bit 6 (R284). -/
theorem ioTest_flag (dev : DevIndex) (s : State) (f : Flag) :
    (ioTest dev s).flag f = if f = .deviceReady then (s.device dev).ready else s.flag f := by
  unfold ioTest
  cases (s.device dev).ready <;> simp

/-- TSF advances CC where the ready flag is set (R284). -/
theorem ioTest_cc (dev : DevIndex) (s : State) :
    (ioTest dev s).cc = if (s.device dev).ready then s.cc + 1#11 else s.cc := by
  unfold ioTest
  cases (s.device dev).ready <;> rfl

/-- TSF leaves A and the devices. -/
theorem ioTest_keeps (dev : DevIndex) (s : State) :
    (ioTest dev s).a = s.a ∧ (ioTest dev s).devices = s.devices := by
  unfold ioTest
  cases (s.device dev).ready <;> exact ⟨rfl, rfl⟩

/-- The low byte of A replaced, on the numbers (R282). -/
theorem toNat_low_byte_replaced (a : Word) (d : Byte) :
    (a &&& 0xFF00#16 ||| d.setWidth 16).toNat = a.toNat / 256 * 256 + d.toNat := by
  have happend : a &&& 0xFF00#16 ||| d.setWidth 16 = a.extractLsb' 8 8 ++ d := by
    refine BitVec.eq_of_getLsbD_eq fun n hn => ?_
    interval_cases n <;>
      simp [BitVec.getLsbD_append, -BitVec.getLsbD_eq_getElem, -Nat.reduceAdd]
  rw [happend, BitVec.toNat_append, ← Nat.shiftLeft_add_eq_or_of_lt d.isLt]
  have hlt := a.isLt
  rw [BitVec.extractLsb'_toNat, Nat.shiftLeft_eq, Nat.shiftRight_eq_div_pow]
  omega

/-- The microprogram of an I/O row serves it. -/
theorem ioServed_of_atConnect {m : Mnemonic} (hk : m.kind = .io) {i : Instr} {dev : DevIndex}
    {s : State} (hencode : encode i = deviceWord m dev) (hi : i.level = .visible)
    (hs : AtConnect (encode i) s) : ∃ t, exec i s = .next t ∧ IoServed m dev i s t := by
  refine ⟨_, exec_of_atConnect hk hencode hi hs, ?_⟩
  have heffect := ioEffect_fetched_placeMacro m dev (encode i) s
  show IoServed m dev i s (passed haltPath
    ((ioServe m dev (fetched (placeMacro (encode i) s))).setMpc (s.mpc + 1#8)))
  rw [ioServe, heffect]
  constructor
  · simp
  · simp
  · simp
  · simp
  · rw [ioEffect_eq]
    rfl

end Sys2Proof.Machine

namespace Sys2Proof

open Machine Spec

/-- Settles O37: each row's effect is its case of the protocol on the state the macro step begins
with. -/
theorem ioMacroInstructionsThroughConnect : Obligations.IoMacroInstructionsThroughConnect := by
  intro dev s
  refine ⟨fun h => ?_, fun h => ?_, fun h => ?_, fun h => ?_⟩
  · obtain ⟨t, hexec, ha, hcc, hdevices, hflag, hframe⟩ :=
      ioServed_of_atConnect (m := .CLF) rfl rfl rfl h
    exact ⟨t, hexec, device_of_devices_eq (fun v => { v with ready := false }) hdevices, hflag,
      hframe.trans (by rw [show t.a = s.a from ha, show t.cc = s.cc from hcc]; rfl)⟩
  · obtain ⟨t, hexec, ha, hcc, hdevices, hflag, hframe⟩ :=
      ioServed_of_atConnect (m := .TSF) rfl rfl rfl h
    obtain ⟨hkeepsA, hkeepsDevices⟩ := ioTest_keeps dev s
    refine ⟨t, hexec, fun f => ?_, ?_, hframe.trans ?_⟩
    · rw [hflag, ioEffect, ioTest_flag]
    · rw [hcc, ioEffect, ioTest_cc]
      split
      · exact BitVec.toNat_add ..
      · rfl
    · rw [ha, hdevices, ioEffect, hkeepsA, hkeepsDevices]
      rfl
  · obtain ⟨t, hexec, ha, hcc, hdevices, hflag, hframe⟩ :=
      ioServed_of_atConnect (m := .IN) rfl rfl rfl h
    refine ⟨t, hexec, ?_, hflag, hframe.trans ?_⟩
    · rw [ha]
      exact toNat_low_byte_replaced s.a (s.device dev).data
    · rw [show t.cc = s.cc from hcc, show t.devices = s.devices from hdevices]
      rfl
  · obtain ⟨t, hexec, ha, hcc, hdevices, hflag, hframe⟩ :=
      ioServed_of_atConnect (m := .OUT) rfl rfl rfl h
    exact ⟨t, hexec,
      device_of_devices_eq (fun v => { v with data := BitVec.ofNat 8 s.a.toNat }) hdevices, hflag,
      hframe.trans (by rw [show t.a = s.a from ha, show t.cc = s.cc from hcc]; rfl)⟩

end Sys2Proof

/-! PROOF. The faults of OP0 (spec/41_micro_alu.md R203): a consulted field that holds 11 raises one, and
no well-formed word of any shape does, so a well-formed microprogram never faults. -/

namespace Sys2Proof.Machine

/-- A consulted field that holds 11 raises the fault, whichever field it is (R203, R344). -/
theorem aluPath_of_not_listed {inv : Code Inv} {op : Code AluOp} {shift : Code Shift}
    {mem : Code Mem} (h : Op0Listed inv op shift mem = false) (left : LeftSel) (right : RightSel)
    (s : State) :
    aluPath left right inv op shift mem s = s.raise (.unlistedField s.mcr s.mpc) := by
  fun_cases aluPath left right inv op shift mem s
  case case2 | case3 | case4 => cases h
  all_goals rfl

/-- An OP0 word that consults no unlisted field leaves the fault mark (R203). -/
theorem aluPath_faultMark {inv : Code Inv} {op : Code AluOp} {shift : Code Shift} {mem : Code Mem}
    (h : Op0Listed inv op shift mem = true) (left : LeftSel) (right : RightSel) (s : State) :
    (aluPath left right inv op shift mem s).faultMark = s.faultMark := by
  rcases aluPath_cases left right inv op shift mem s with ⟨v, he⟩ | ⟨m, v, _, he⟩ | ⟨hn, _⟩
  · rw [he]; rfl
  · rw [he]; cases m <;> rfl
  · rw [h] at hn; cases hn

/-- No well-formed word raises a fault: OP0 by its fields, the other two shapes always (R96, R203). -/
theorem runTerm_faultMark {m : MicroTerm} (h : (classify m).wellFormed = true) (s : State) :
    (runTerm m s).faultMark = s.faultMark := by
  cases m with
  | op0 left right inv op shift mem => exact aluPath_faultMark h left right s
  | ctrl cmp reg bit target =>
    show (controlPath cmp reg bit target s).faultMark = s.faultMark
    unfold controlPath
    split <;> rfl
  | op1 io halt st =>
    show (op1Path io halt st s).faultMark = s.faultMark
    unfold op1Path
    split_ifs
    · rfl
    · exact (passes_ioPath ..).faultMark s
    · rw [statusPath_eq]

/-- The end of a micro-step leaves the fault mark (R262). -/
@[simp] theorem advance_faultMark (s : State) : (advance s).faultMark = s.faultMark := by
  rcases advance_cases s with ⟨_, he⟩ | ⟨_, _, he⟩ <;> rw [he]
  rfl

/-- A well-formed microprogram stays one where MICRO is kept (R66). -/
theorem MicroprogramWellFormed.congr {s t : State} (h : MicroprogramWellFormed s)
    (hmicro : t.micro = s.micro) : MicroprogramWellFormed t := by
  intro i
  rw [State.microWord, hmicro]
  exact h i

end Sys2Proof.Machine

namespace Sys2Proof

open Machine

/-- Settles O48: the word at MPC is well-formed, so the step keeps the empty mark, and no step writes
MICRO. -/
theorem wellFormedMicroprogramNeverFaults : Obligations.WellFormedMicroprogramNeverFaults := by
  rintro s ⟨hmark, hprogram⟩
  have hrun : (runTerm (decodeTerm (fetchWord s)) (fetched s)).faultMark = none :=
    (runTerm_faultMark (hprogram s.mpc) (fetched s)).trans hmark
  rcases microStep_cases s with ⟨f, hf, _⟩ | ⟨_, hmicroStep⟩
  · rw [hmark] at hf; cases hf
  · have hstep := (step_eq_microStep s).trans hmicroStep
    exact ⟨_, hstep, (advance_faultMark _).trans hrun,
      hprogram.congr ((microClosed_micro s.micro).step rfl hstep)⟩

/-- Settles O18: in each case a consulted field is not listed. -/
theorem op0UnlistedFieldFaults : Obligations.Op0UnlistedFieldFaults := by
  intro left right inv op shift mem s h
  have hn : Op0Listed inv op shift mem = false := by
    rcases h with rfl | ⟨rfl, rfl | rfl | rfl⟩ <;> simp [Op0Listed, Code.isListed]
  exact congrArg Host.Outcome.next (aluPath_of_not_listed hn left right s)

end Sys2Proof

/-! PROOF. The effect of OP0 (spec/41_micro_alu.md R190 to R200): the memory access comes before the
operands are selected, BR is given as a number, and the rest stays unchanged. -/

namespace Sys2Proof.Machine

open Spec

/-! ## The operands on the numbers (R195 to R197) -/

theorem toNat_leftOperand (l : LeftSel) (s : State) : (leftOperand l s).toNat = leftValue l s := by
  cases l
  case sr => exact BitVec.toNat_setWidth_of_le (by omega)
  all_goals rfl

theorem toNat_rightOperand (r : RightSel) (s : State) :
    (rightOperand r s).toNat = rightValue r s := by
  cases r
  case cc => exact BitVec.toNat_setWidth_of_le (by omega)
  all_goals rfl

theorem toNat_complementLeft (i : Inv) (l : Word) :
    (complementLeft i l).toNat = complemented (i == .left) l.toNat := by
  cases i
  case left => exact BitVec.toNat_not
  all_goals rfl

theorem toNat_complementRight (i : Inv) (r : Word) :
    (complementRight i r).toNat = complemented (i == .right) r.toNat := by
  cases i
  case right => exact BitVec.toNat_not
  all_goals rfl

/-- The memory access writes no register the left operand can be (R194, R195). -/
theorem leftValue_afterAccess (l : LeftSel) (m : Mem) (s : State) :
    leftValue l (afterAccess m s) = leftValue l s := by
  cases m <;> cases l <;> rfl

/-- Of what the right operand can be, the memory access writes DR alone (R194, R196). -/
theorem rightValue_afterAccess (r : RightSel) (m : Mem) (s : State) :
    rightValue r (afterAccess m s) = rightValue r { s with dr := (afterAccess m s).dr } := by
  cases m <;> cases r <;> rfl

/-! ## OP0 without a shift (R190, R194, R198) -/

theorem exec_aluWord (left : LeftSel) (right : RightSel) (inv : Inv) (op : AluOp) (mem : Mem)
    (s : State) :
    exec (aluWord left right inv op mem) s = .next (aluEffect left right inv op mem s) :=
  congrArg Host.Outcome.next (aluCompute_eq left right inv op mem s)

/-- BR is the exact result on the operands read after the access (R194 to R198). -/
theorem toNat_aluEffect_br (left : LeftSel) (right : RightSel) (inv : Inv) (op : AluOp) (mem : Mem)
    (s : State) :
    (aluEffect left right inv op mem s).br.toNat =
      aluValue op (complemented (inv == .left) (leftValue left s))
        (complemented (inv == .right)
          (rightValue right { s with dr := (aluEffect left right inv op mem s).dr })) := by
  show (aluResult op _ _).toNat = _
  rw [toNat_aluResult, toNat_complementLeft, toNat_complementRight, toNat_leftOperand,
    toNat_rightOperand, leftValue_afterAccess, rightValue_afterAccess]
  rfl

/-- DR after the memory access (R194). -/
theorem afterAccess_dr (m : Mem) (s : State) :
    (afterAccess m s).dr = if m = .read then s.genWord s.ar else s.dr := by
  cases m <;> rfl

/-- A general word after the memory access (R194). -/
theorem genWord_afterAccess (m : Mem) {s : State} (hwf : genWf s.gen = true) (i : GenAddr) :
    (afterAccess m s).genWord i = if m = .write ∧ i = s.ar then s.dr else s.genWord i := by
  cases m
  case write => simp [genWord_setGenWord _ _ _ hwf]
  all_goals rfl

/-- The memory access changes DR and general memory at most (R194). -/
theorem afterAccess_eq (m : Mem) (s : State) :
    afterAccess m s = { s with dr := (afterAccess m s).dr, gen := (afterAccess m s).gen } := by
  cases m <;> rfl

/-- General memory is written by MEM write alone (R194). -/
theorem afterAccess_gen {m : Mem} (hm : m ≠ .write) (s : State) : (afterAccess m s).gen = s.gen := by
  cases m
  case write => contradiction
  all_goals rfl

/-- Every OP0 word but one without a shift and with all fields listed changes BR, the mark and the
outcome alone (R191, R203). -/
theorem aluPath_unchanged_or_computes (left : LeftSel) (right : RightSel) (inv : Code Inv)
    (op : Code AluOp) (shift : Code Shift) (mem : Code Mem) (s : State) :
    (∃ b f o, aluPath left right inv op shift mem s =
      { s with br := b, faultMark := f, outcome := o }) ∨
    (∃ m b, mem = .listed m ∧ shift = .listed .none ∧
      aluPath left right inv op shift mem s = ((afterAccess m s).setBr b).returning .success) := by
  fun_cases aluPath left right inv op shift mem s
  case case4 m i o => exact .inr ⟨m, _, rfl, rfl, aluCompute_eq left right i o m s⟩
  all_goals exact .inl ⟨_, _, _, rfl⟩

/-! ## The carry after a shift (R224) -/

/-- Carry selector 01 moves BR[16] into C, whatever else the status word does (R224). -/
theorem statusPath_fromBuffer_carry (zn : ZnSel) (wb : WbSel) (s : State) :
    (statusPath ⟨.fromBuffer, zn, wb⟩ s).flag .carry = s.br.toNat.testBit 16 := by
  simp [statusPath, flagsUpdated, brCarry_eq]

end Sys2Proof.Machine

namespace Sys2Proof

open Machine Spec

/-- Settles O13: the ALU is exact on the operands read after the access. -/
theorem op0StoresAluResult : Obligations.Op0StoresAluResult := by
  intro left right inv op mem s
  exact ⟨_, exec_aluWord left right inv op mem s, toNat_aluEffect_br left right inv op mem s, rfl⟩

/-- Settles O14: DR and the cells are those after the access, from which BR is computed. -/
theorem op0AccessesGeneralMemoryAtAr : Obligations.Op0AccessesGeneralMemoryAtAr := by
  intro left right inv op mem s hwf
  exact ⟨_, exec_aluWord left right inv op mem s, afterAccess_dr mem s, genWord_afterAccess mem hwf,
    toNat_aluEffect_br left right inv op mem s⟩

/-- Settles O15: only a word without a shift has the memory access, and that changes DR or the cell at
AR. -/
theorem op0Frame : Obligations.Op0Frame := by
  intro left right inv op shift mem s t h
  obtain rfl : aluPath left right inv op shift mem s = t := Host.Outcome.next.inj h
  rcases aluPath_unchanged_or_computes left right inv op shift mem s with
    ⟨b, f, o, he⟩ | ⟨m, b, rfl, rfl, he⟩ <;> rw [he]
  · exact ⟨rfl, fun _ => rfl, fun _ => rfl, fun _ _ _ => rfl⟩
  · refine ⟨?_, fun hm => ?_, fun hm => ?_, fun hwf i hi => ?_⟩
    · rw [afterAccess_eq]; rfl
    · have hread : m ≠ .read := by simpa using hm
      exact (afterAccess_dr m s).trans (if_neg hread)
    · have hwrite : m ≠ .write := by simpa using hm
      exact afterAccess_gen hwrite s
    · exact (genWord_afterAccess m hwf i).trans (if_neg fun hc => hi hc.2)

/-- Settles O16: the shift leaves A[15] in BR[16], from where the carry selector takes it. -/
theorem op0ShiftLeft : Obligations.Op0ShiftLeft := by
  intro left right inv op mem s
  refine ⟨shiftEffect shiftLeft s, rfl, ?_, rfl, fun zn wb => ⟨_, rfl, ?_⟩⟩
  · exact (toNat_shiftLeft s.a (s.flag .carry)).trans (by rw [Nat.mul_comm])
  · exact (statusPath_fromBuffer_carry zn wb _).trans (shiftLeft_rotates s.a (s.flag .carry)).2

/-- Settles O17: the value of the shift to the right. -/
theorem op0ShiftRight : Obligations.Op0ShiftRight := by
  intro left right inv op mem s
  exact ⟨shiftEffect shiftRight s, rfl, toNat_shiftRight s.a (s.flag .carry), rfl⟩

/-- Settles O19: the sum is A + 65536 - DR, which reaches bit 16 exactly without a borrow. -/
theorem op0SubtractsWithoutBorrow : Obligations.Op0SubtractsWithoutBorrow := by
  intro s
  refine ⟨_, exec_aluWord .a .dr .right .sumPlusOne .none s, ?_, ?_⟩
  · calc (aluResult .sumPlusOne s.a (~~~s.dr)).setWidth 16
      _ = s.a + ~~~s.dr + 1#16 := setWidth_aluResult_sumPlusOne s.a (~~~s.dr)
      _ = s.a - s.dr := by rw [BitVec.sub_eq_add_neg, BitVec.neg_eq_not_add, BitVec.add_assoc]
  · have hbr : (aluEffect .a .dr .right .sumPlusOne .none s).br.toNat =
        s.a.toNat + (65535 - s.dr.toNat) + 1 := toNat_aluEffect_br ..
    have ha := s.a.isLt
    have hdr := s.dr.isLt
    rw [hbr, Nat.testBit_eq_decide_div_mod_eq, decide_eq_true_eq]
    omega

end Sys2Proof

/-! PROOF. The paths of OP1 (spec/42_micro_status_io.md R220 to R230): the status path on C, Z, N, BR and
the write-back destinations, with BR as a number, and the I/O path by its flags. -/

namespace Sys2Proof.Machine

open Spec

/-! ## The status path (R220, R224 to R226) -/

/-- A flag after the status path is as the flag updates leave it: write-back writes none (R226). -/
theorem statusPath_flag_eq (st : StatusFields) (s : State) (g : Flag) :
    (statusPath st s).flag g = (updateZn st.zn (updateCarry st.carry s)).flag g :=
  writeBack_flag st.wb _ _ g

/-- BR after the status path is as the carry update leaves it (R225, R226). -/
theorem statusPath_br (st : StatusFields) (s : State) :
    (statusPath st s).br = (updateCarry st.carry s).br := by
  rw [statusPath_eq, flagsUpdated, updateZn_eq]

/-- Of the carry selectors only 01 changes BR: it clears bit 16 (R224). -/
theorem toNat_updateCarry_br (c : CarrySel) (s : State) :
    (updateCarry c s).br.toNat = if c = .fromBuffer then low s else s.br.toNat := by
  cases c
  case fromBuffer => exact (BitVec.toNat_setWidth_of_le (by omega)).trans (toNat_brLow s)
  all_goals rfl

theorem updateCarry_br_of_ne {c : CarrySel} (h : c ≠ .fromBuffer) (s : State) :
    (updateCarry c s).br = s.br := by
  cases c
  case fromBuffer => contradiction
  all_goals rfl

/-- The value an 11-bit destination takes from BR (R226). -/
theorem toNat_brLow_setWidth (s : State) : (s.brLow.setWidth 11).toNat = low s % 2048 := by
  rw [BitVec.toNat_setWidth, toNat_brLow]
  rfl

/-- The status path changes SR, BR under carry selector 01, and the registers its write-back code names
(R220, R224, R226). -/
theorem statusPath_frame (st : StatusFields) (s : State) :
    statusPath st s =
      { s with
        a := if st.wb = .a ∨ st.wb = .all then (statusPath st s).a else s.a
        cc := if st.wb = .cc then (statusPath st s).cc else s.cc
        ar := if st.wb = .ar ∨ st.wb = .all then (statusPath st s).ar else s.ar
        cr := if st.wb = .cr ∨ st.wb = .all then (statusPath st s).cr else s.cr
        dr := if st.wb = .dr ∨ st.wb = .all then (statusPath st s).dr else s.dr
        br := if st.carry = .fromBuffer then (statusPath st s).br else s.br
        sr := (statusPath st s).sr
        outcome := some .success } := by
  have hbr : (statusPath st s).br = if st.carry = .fromBuffer then (statusPath st s).br else s.br := by
    rw [statusPath_br, eq_comm, ite_eq_left_iff]
    exact fun h => (updateCarry_br_of_ne h s).symm
  rw [← hbr, statusPath_eq]
  simp +contextual

/-! ## The I/O path (R227 to R230) -/

/-- The flags of an I/O word act on what connect leaves: every ready flag by reset-all-ready, then SR bit 4
by disable and then enable, and nothing else (R227, D8). -/
theorem ioPath_acts (conn rdy di ei : Bool) (s : State) :
    (∀ d, (ioPath conn rdy di ei s).device d =
      if rdy then { (whenSet conn connect s).device d with ready := false }
      else (whenSet conn connect s).device d) ∧
    (∀ f, (ioPath conn rdy di ei s).flag f =
      if f = .interruptsAllowed then ((whenSet conn connect s).flag f && !di) || ei
      else (whenSet conn connect s).flag f) ∧
    ioPath conn rdy di ei s =
      { whenSet conn connect s with
        devices := (ioPath conn rdy di ei s).devices
        sr := (ioPath conn rdy di ei s).sr
        outcome := some .success } := by
  refine ⟨device_ioPath conn rdy di ei s, fun f => ?_, ioPath_eq conn rdy di ei s⟩
  rw [flag_ioPath, Bool.or_comm, Bool.and_comm]

/-- An ignored connect leaves one log entry more (R230). -/
theorem connect_of_ne {s : State} (h : s.dr ≠ s.cr) :
    connect s = s.appendLog (.ignoredConnect s.dr s.cr) :=
  if_neg h

end Sys2Proof.Machine

namespace Sys2Proof

open Machine Spec

/-- Settles O21: C and BR are as the carry update leaves them; Z/N and write-back touch neither. -/
theorem carrySelector : Obligations.CarrySelector := by
  intro st s
  refine ⟨_, rfl, ?_, ?_⟩
  · rw [statusPath_flag_eq, flag_updateZn, flag_updateCarry]
    cases st.carry <;> simp [brCarry_eq]
  · rw [statusPath_br, toNat_updateCarry_br]

/-- Settles O22: Z and N are taken from the low 16 bits of BR, which the carry update has left. -/
theorem zeroNegativeSelector : Obligations.ZeroNegativeSelector := by
  intro st s
  have hzero : (s.brLow == 0#16) = decide (low s = 0) := brLow_eq_zero s
  have hbit : s.brLow.getLsbD 15 = (low s).testBit 15 :=
    congrArg (Nat.testBit · 15) (toNat_brLow s)
  refine ⟨_, rfl, ?_, ?_⟩ <;>
    rw [statusPath_flag_eq, flag_updateZn, updateCarry_brLow, hzero, hbit]
  · by_cases hsel : st.zn = .zero ∨ st.zn = .both <;> simp [hsel]
  · by_cases hsel : st.zn = .negative ∨ st.zn = .both <;> simp [hsel]

/-- Settles O23: each destination takes the low 16 bits of BR at its width; BR is the carry update's. -/
theorem writeBackDestinations : Obligations.WriteBackDestinations := by
  intro st s
  refine ⟨_, rfl, ?_, ?_, ?_, ?_, ?_, fun wb => ⟨_, rfl, ?br⟩⟩
  case br => rw [statusPath_br, statusPath_br]
  all_goals
    rw [statusPath_eq]
    simp only [apply_ite BitVec.toNat, toNat_brLow_setWidth, toNat_brLow, low]

/-- Settles O24: the frame of the status path, and its flag updates on the flags they do not select. -/
theorem statusPathFrame : Obligations.StatusPathFrame := by
  intro st s t h
  obtain rfl : statusPath st s = t := Host.Outcome.next.inj h
  refine ⟨statusPath_frame st s, fun f hcarry hzero hnegative => ?_, fun hcarry hzn => ?_⟩
  · rw [statusPath_flag_eq, flag_updateZn, flag_updateCarry]
    simp [hcarry, hzero, hnegative]
  · rw [statusPath_eq, flagsUpdated, hcarry, hzn]
    rfl

/-- Settles O27: the other flags act on what a connect word alone leaves, or on the state where connect is
not set; the status fields are masked. -/
theorem severalIoFlagsActInOrder : Obligations.SeveralIoFlagsActInOrder := by
  constructor
  · intro rdy di ei st st' s
    exact ⟨_, _, rfl, rfl, ioPath_acts true rdy di ei s⟩
  · intro di ei st s
    exact ⟨_, rfl, ioPath_acts false true di ei s⟩

/-- Settles O20: a halt word records its outcome alone, after which the step advances MPC. -/
theorem haltChangesNothing : Obligations.HaltChangesNothing := by
  intro io st s
  refine ⟨rfl, fun hmark hword => ?_⟩
  have hfetch : decodeMicro (fetchWord s) = .mcHalt io st := hword
  have hstep : step s = .next (advance (haltPath (fetched s))) := by
    rw [step, hmark, hfetch]
    rfl
  exact hstep

/-- Settles O25: the I/O path with reset-all-ready alone, which writes no SR bit. -/
theorem resetReadyClearsEveryDevice : Obligations.ResetReadyClearsEveryDevice := by
  intro st s
  exact ⟨_, rfl, device_clearReady s, rfl⟩

/-- Settles O26: the I/O path with DI, with both and with EI, on SR bit 4. -/
theorem interruptFlagsWriteBit4 : Obligations.InterruptFlagsWriteBit4 := by
  intro st s
  refine ⟨⟨_, rfl, fun f => ?_, rfl⟩, ⟨_, rfl, fun f => ?_, rfl⟩, ⟨_, rfl, fun f => ?_, rfl⟩⟩
  all_goals
    rw [flag_ioPath]
    simp [whenSet]

/-- Settles O28: connect alone, where DR differs from CR, appends its entry to the ring. -/
theorem ignoredConnectOnlyLogs : Obligations.IgnoredConnectOnlyLogs := by
  intro st s hne
  refine ⟨_, rfl, ?_, ?_⟩
  all_goals
    rw [ioPath_connect, connect_of_ne hne]
    rfl

end Sys2Proof

/-! PROOF. The control micro-instruction (spec/43_micro_control.md R250 to R255): the tested bit on
naturals, and the branch. -/

namespace Sys2Proof.Machine

open Spec

theorem toNat_controlOperand (reg : CtrlReg) (s : State) :
    (controlOperand reg s).toNat = controlValue reg s := by
  cases reg
  case sr => exact BitVec.toNat_setWidth_of_le (by omega)
  all_goals rfl

/-- The bit a control word tests (R250), of the register as a number. -/
theorem getLsbD_controlOperand (reg : CtrlReg) (s : State) (i : Nat) :
    (controlOperand reg s).getLsbD i = (controlValue reg s).testBit i := by
  rw [← toNat_controlOperand, BitVec.testBit_toNat]

/-- The status word has 13 bits: those above read as 0 (R252). -/
theorem testBit_controlValue_sr (s : State) {i : Nat} (h : 13 ≤ i) :
    (controlValue .sr s).testBit i = false :=
  BitVec.getLsbD_of_ge s.sr i h

end Sys2Proof.Machine

namespace Sys2Proof

open Machine Spec

/-- Settles O33: the control path, with the tested bit read on naturals. -/
theorem controlJumpsOnTestedBit : Obligations.ControlJumpsOnTestedBit := by
  intro cmp reg bit target s
  rw [← getLsbD_controlOperand]
  rfl

/-- Settles O34: the branch of O33, where the tested bit is 0. -/
theorem missingStatusBitsReadZero : Obligations.MissingStatusBitsReadZero := by
  intro bit target s hbit
  have hzero := testBit_controlValue_sr s hbit
  constructor
  · rw [controlJumpsOnTestedBit, if_pos hzero]
  · rw [controlJumpsOnTestedBit, if_neg (by rw [hzero]; decide)]

end Sys2Proof

/-! PROOF. The sequencer (spec/44_sequencer.md R260 to R267): what a decoded word does to MPC, MCR,
the mark and the returned outcome, the step and the runs of steps that follow from it. -/

namespace Sys2Proof.Machine

open Spec

/-! ## The end of a micro-step (R262) -/

@[simp] theorem advance_mcr (s : State) : (advance s).mcr = s.mcr := by
  rcases advance_cases s with ⟨_, he⟩ | ⟨_, _, he⟩ <;> rw [he]
  rfl

@[simp] theorem advance_outcome (s : State) : (advance s).outcome = s.outcome := by
  rcases advance_cases s with ⟨_, he⟩ | ⟨_, _, he⟩ <;> rw [he]
  rfl

/-- MPC stays where the instruction left it after Jumped and a fault, and else is one further. -/
theorem advance_eq_ite (s : State) :
    advance s = if s.outcome = some .jumped ∨ s.outcome = some .fault then s
      else s.setMpc (s.mpc + 1#8) := by
  rcases advance_cases s with ⟨h, he⟩ | ⟨hjumped, hfault, he⟩
  · rw [he, if_pos h]
  · rw [he, if_neg (not_or.2 ⟨hjumped, hfault⟩)]

/-- After Success and Halted MPC is one further, modulo 256. -/
theorem toNat_advance_mpc {s : State} (h : s.outcome = some .success ∨ s.outcome = some .halted) :
    (advance s).mpc.toNat = (s.mpc.toNat + 1) % 256 := by
  have hgoes : ¬ (s.outcome = some .jumped ∨ s.outcome = some .fault) := by
    rcases h with ho | ho <;> simp [ho]
  rw [advance_eq_ite, if_neg hgoes]
  exact BitVec.toNat_add s.mpc 1#8

/-! ## The decoded word (R260, R261) -/

/-- Connect does not write MCR (R230, R280). -/
theorem connect_mcr (s : State) : (connect s).mcr = s.mcr := by
  rcases connect_cases s with ⟨_, he⟩ | ⟨_, he⟩ <;> rw [he]
  · unfold ioProtocol
    rcases ioCase_cases s with ⟨_, he⟩ | ⟨_, _, he⟩ | ⟨_, _, he⟩ | ⟨_, _, he⟩ <;> rw [he]
    case inr.inr.inl =>
      unfold ioTest
      split <;> rfl
    all_goals rfl
  · rfl

/-- MCR is written by the fetch alone (R27): no decoded word writes it. -/
theorem runTerm_mcr (m : MicroTerm) (s : State) : (runTerm m s).mcr = s.mcr := by
  cases m with
  | op0 left right inv op shift mem =>
    show (aluPath left right inv op shift mem s).mcr = s.mcr
    rcases aluPath_cases left right inv op shift mem s with ⟨v, he⟩ | ⟨m, v, _, he⟩ | ⟨_, he⟩ <;>
      rw [he]
    case inr.inl => cases m <;> rfl
    all_goals rfl
  | ctrl cmp reg bit target =>
    show (controlPath cmp reg bit target s).mcr = s.mcr
    unfold controlPath
    split <;> rfl
  | op1 io halt st =>
    show (op1Path io halt st s).mcr = s.mcr
    unfold op1Path
    split_ifs
    · rfl
    · rw [ioPath_eq]
      cases io.conn
      · rfl
      · exact connect_mcr s
    · rw [statusPath_eq]

/-- A word of a control row jumps or returns Success by the tested bit (R250). -/
theorem runTerm_of_classify_eq_mcCtrl {m : MicroTerm} {cmp : Bool} {reg : CtrlReg} {bit : BitVec 4}
    {target : MicroAddr} (h : classify m = .mcCtrl cmp reg bit target) (s : State) :
    runTerm m s = if (controlValue reg s).testBit bit.toNat = cmp then
        (s.setMpc target).returning .jumped
      else s.returning .success := by
  have hexec := exec_classify m s
  rw [h, controlJumpsOnTestedBit] at hexec
  exact (Host.Outcome.next.inj hexec).symm

/-- A word that is not well-formed is OP0 and raises the fault with its MPC (R203, R343). -/
theorem runTerm_of_not_wellFormed {m : MicroTerm} (h : (classify m).wellFormed = false)
    (s : State) : runTerm m s = s.raise (.unlistedField s.mcr s.mpc) := by
  fun_cases classify m
  case case1 left right inv op shift mem => exact aluPath_of_not_listed h left right s
  all_goals cases h

/-- A well-formed word but a control word leaves MPC and returns Success or Halted (R261). -/
theorem runTerm_returns {m : MicroTerm} (hwf : (classify m).wellFormed = true)
    (hctrl : ∀ cmp reg bit target, classify m ≠ .mcCtrl cmp reg bit target) (s : State) :
    (runTerm m s).mpc = s.mpc ∧
      ((runTerm m s).outcome = some .success ∨ (runTerm m s).outcome = some .halted) := by
  cases m with
  | op0 left right inv op shift mem =>
    rcases aluPath_cases left right inv op shift mem s with ⟨v, he⟩ | ⟨m, v, _, he⟩ | ⟨hn, _⟩
    · rw [runTerm, he]
      exact ⟨rfl, .inl rfl⟩
    · rw [runTerm, he]
      cases m <;> exact ⟨rfl, .inl rfl⟩
    · exact absurd (hn.symm.trans hwf) Bool.false_ne_true
  | ctrl cmp reg bit target => exact absurd rfl (hctrl cmp reg bit target)
  | op1 io halt st =>
    rw [runTerm, op1Path]
    split_ifs
    · exact ⟨rfl, .inr rfl⟩
    · have hpasses := passes_ioPath io.conn io.rdy io.di io.ei
      exact ⟨hpasses.mpc s, .inl (hpasses.outcome s)⟩
    · rw [statusPath_eq]
      exact ⟨rfl, .inl rfl⟩

/-! ## The step -/

/-- The step from an unmarked state: fetch, the decoded word, the end of the micro-step (R260). -/
theorem step_of_unmarked {s : State} (hmark : s.faultMark = none) :
    step s = .next (advance (runTerm (decodeTerm (s.microWord s.mpc)) (fetched s))) := by
  rw [step_eq_microStep, microStep, hmark, fetchWord]

/-- A step that leaves a mark returned Fault (R341). -/
theorem outcome_of_step_marked {s t : State} (hstep : step s = .next t)
    (hmark : t.faultMark.isSome = true) : t.outcome = some .fault := by
  rw [step_eq_microStep] at hstep
  rcases microStep_cases s with ⟨f, _, he⟩ | ⟨hunmarked, he⟩ <;> rw [he] at hstep <;> cases hstep
  rw [advance_faultMark] at hmark
  rw [advance_outcome]
  cases hwf : (classify (decodeTerm (fetchWord s))).wellFormed with
  | true =>
    have hnone : (fetched s).faultMark = none := hunmarked
    rw [runTerm_faultMark hwf, hnone] at hmark
    cases hmark
  | false => rw [runTerm_of_not_wellFormed hwf, State.raise_outcome]

/-- A step that returned anything but Fault leaves no mark (R341). -/
theorem faultMark_of_step_ne_fault {s t : State} (hstep : step s = .next t)
    (ho : t.outcome ≠ some .fault) : t.faultMark = none :=
  Option.not_isSome_iff_eq_none.1 fun hmark => ho (outcome_of_step_marked hstep hmark)

/-! ## The macro step (R263) -/

/-- A macro step that answers a state returned Halted there, or raised a fault (R341). -/
theorem haltsIn_or_fault_of_runMacro {fuel : Nat} {s t : State} (h : runMacro fuel s = .next t) :
    (∃ n, n ≤ fuel ∧ HaltsIn n s t) ∨ (t.outcome = some .fault ∧ t.faultMark.isSome = true) := by
  induction fuel generalizing s with
  | zero => cases h
  | succ fuel ih =>
    unfold runMacro at h
    cases hmicro : microStep s with
    | fault f => simp [hmicro] at h
    | refused r => simp [hmicro] at h
    | next u =>
      have hstep : step s = .next u := (step_eq_microStep s).trans hmicro
      simp only [hmicro] at h
      split at h
      next hover =>
        cases h
        by_cases hhalted : t.outcome = some .halted
        · exact .inl ⟨1, Nat.le_add_left 1 fuel, t, hstep, .inl ⟨hhalted, rfl, rfl⟩⟩
        · have hmark : t.faultMark.isSome = true := by simpa [macroStepOver, hhalted] using hover
          exact .inr ⟨outcome_of_step_marked hstep hmark, hmark⟩
      next hgoes =>
        obtain ⟨hhalted, hmark⟩ : u.outcome ≠ some .halted ∧ u.faultMark = none := by
          simpa [macroStepOver] using hgoes
        refine (ih h).imp_left ?_
        rintro ⟨n, hn, hrun⟩
        exact ⟨n + 1, Nat.succ_le_succ hn, u, hstep, .inr ⟨hhalted, hmark, hrun⟩⟩

/-! ## The continuous run (R266) -/

theorem runBatch_of_leverDown {s : State} (h : s.flag .runLever = false) (n : Nat) :
    runBatch (n + 1) s = (.leverDown, s) := by
  rw [runBatch, h, if_neg Bool.false_ne_true]

/-- With the lever up the run steps, and after a step without a fault goes on unless it halted. -/
theorem runBatch_of_step {s t : State} (hlever : s.flag .runLever = true) (hstep : step s = .next t)
    (hmark : t.faultMark = none) (n : Nat) :
    runBatch (n + 1) s = if t.outcome = some .halted then (.halted, t) else runBatch n t := by
  rw [runBatch, if_pos hlever, hstep]
  simp only [hmark]

end Sys2Proof.Machine

namespace Sys2Proof

open Machine Spec

/-- Settles O8: each row of the table means what its term means in the three-shape sequencer. -/
theorem stepIsSequencerPseudocode : Obligations.StepIsSequencerPseudocode :=
  step_eq_microStep

/-- Settles O10: the step is the decoded word and `advance`; a control word goes by its tested bit,
any other well-formed word leaves MPC to `advance`, and a faulting word only raises. -/
theorem mpcAfterStepByCase : Obligations.MpcAfterStepByCase := by
  intro s hmark
  refine ⟨_, step_of_unmarked hmark, ?_, ?_, ?_, ?_⟩
  · rw [advance_mcr, runTerm_mcr]
    rfl
  · intro cmp reg bit target hctrl
    have hvalue : controlValue reg (fetched s) = controlValue reg s := by cases reg <;> rfl
    rw [runTerm_of_classify_eq_mcCtrl hctrl, hvalue]
    split_ifs
    · exact ⟨rfl, rfl⟩
    · exact ⟨toNat_advance_mpc (.inl rfl), rfl⟩
  · intro hwf hctrl
    obtain ⟨hmpc, hreturns⟩ := runTerm_returns hwf hctrl (fetched s)
    rw [toNat_advance_mpc hreturns, advance_outcome, hmpc]
    exact ⟨rfl, hreturns⟩
  · intro hwf
    rw [runTerm_of_not_wellFormed hwf]
    exact ⟨rfl, rfl⟩

/-- Settles O35: a macro row is the bounded run on its placed word, and the run that halts within
the bound is that run. -/
theorem macroInstructionIsAMacroStep : Obligations.MacroInstructionIsAMacroStep := by
  intro i n s t hi hn hrun
  rw [exec_of_level_visible hi]
  exact runMacro_of_haltsIn hrun hn

/-- Settles O36: the converse of O35, by induction over the fuel of the run. -/
theorem macroInstructionAnswersEndOfRun : Obligations.MacroInstructionAnswersEndOfRun := by
  intro i s t hi h
  rw [exec_of_level_visible hi] at h
  exact haltsIn_or_fault_of_runMacro h

/-- Settles O7: the step runs exec on the fetched state, and `advance` ends it. -/
theorem stepRunsDecodedInstruction : Obligations.StepRunsDecodedInstruction := by
  intro s t hmark hexec
  have hrun : exec (decodeMicro (fetchWord s)) (fetched s) = .next t := hexec
  rw [step, hmark, hrun]
  exact congrArg Host.Outcome.next (advance_eq_ite t)

/-- Settles O60: one step of the batch with the lever down and with the lever up; a halting step
leaves no mark. -/
theorem continuousRunStops : Obligations.ContinuousRunStops := by
  refine ⟨fun n s hlever => runBatch_of_leverDown hlever n, fun n s t hlever hstep hhalted => ?_,
    fun n s t hlever hstep hgoes hmark => ?_, fun s => ⟨rfl, rfl⟩⟩
  · have hmark := faultMark_of_step_ne_fault hstep (by simp [hhalted])
    rw [runBatch_of_step hlever hstep hmark, if_pos hhalted]
  · rw [runBatch_of_step hlever hstep hmark, if_neg hgoes]

end Sys2Proof

/-! PROOF. The I/O protocol of a connect word (spec/45_io_protocol.md R280 to R287): DR bits 9..8 as a
number choose the I/O row whose effect it has, and no decoded word makes a device ready. -/

namespace Sys2Proof.Machine

open Spec

/-! ## The case by DR bits 9..8 (R280) -/

/-- Bits 9..8 of a word in place. -/
theorem and_0x0300_eq_extractLsb' (w : Word) :
    w &&& 0x0300#16 = (w.extractLsb' 8 2).setWidth 16 <<< 8 := by
  refine BitVec.eq_of_getLsbD_eq fun n hn => ?_
  interval_cases n <;> simp [-BitVec.getLsbD_eq_getElem]

/-- Words with the same number in bits 9..8 agree under the mask of these bits. -/
theorem and_0x0300_eq_of_selector_eq {v w : Word}
    (h : v.toNat / 256 % 4 = w.toNat / 256 % 4) : v &&& 0x0300#16 = w &&& 0x0300#16 := by
  have hbits : v.extractLsb' 8 2 = w.extractLsb' 8 2 := by
    apply BitVec.eq_of_toNat_eq
    rw [BitVec.extractLsb'_toNat, BitVec.extractLsb'_toNat, Nat.shiftRight_eq_div_pow,
      Nat.shiftRight_eq_div_pow]
    exact h
  rw [and_0x0300_eq_extractLsb', and_0x0300_eq_extractLsb', hbits]

/-- The case of the protocol is the effect of the I/O row whose mask has DR's bits 9..8, on the device of
DR's bits 3..0. -/
theorem ioCase_eq_ioEffect {m : Mnemonic} (hk : m.kind = .io) {s : State}
    (hsel : ioSelector s = m.mask.toNat / 256 % 4) : ioCase s = ioEffect m (ioTarget s) s := by
  have hdev : ioDevice s = ioTarget s := rfl
  have h3 : s.dr &&& 0x0300#16 = m.mask &&& 0x0300#16 := and_0x0300_eq_of_selector_eq hsel
  have h2 : s.dr &&& 0x0200#16 = m.mask &&& 0x0300#16 &&& 0x0200#16 := by
    rw [← h3, BitVec.and_assoc]; rfl
  have h1 : s.dr &&& 0x0100#16 = m.mask &&& 0x0300#16 &&& 0x0100#16 := by
    rw [← h3, BitVec.and_assoc]; rfl
  unfold ioCase
  rw [h3, h2, h1, hdev]
  cases m <;> cases hk <;> rfl

/-- A connect word alone, with DR = CR, serves the I/O row that DR's bits 9..8 select (R230, R280). -/
theorem exec_connect {m : Mnemonic} (hk : m.kind = .io) (st : StatusFields) {s : State}
    (heq : s.dr = s.cr) (hsel : ioSelector s = m.mask.toNat / 256 % 4) :
    exec (.mcIoConn false false false st) s = .next (ioServe m (ioTarget s) s) := by
  have hprotocol : connect s = ioProtocol s := if_pos heq
  rw [ioServe, ← ioCase_eq_ioEffect hk hsel, ← ioProtocol, ← hprotocol]
  rfl

/-- SR bit 12 is cleared after the effect of the row, which leaves the other flags its own (R285). -/
theorem ioServe_flag (m : Mnemonic) (dev : DevIndex) (s : State) (f : Flag) :
    (ioServe m dev s).flag f = if f = .ioActive then false else (ioEffect m dev s).flag f := by
  rw [ioServe, State.returning_flag, flag_setFlag]

/-! ## The ready flags (R287) -/

/-- OP0 writes no device (R190). -/
theorem aluPath_devices (left : LeftSel) (right : RightSel) (inv : Code Inv) (op : Code AluOp)
    (shift : Code Shift) (mem : Code Mem) (s : State) :
    (aluPath left right inv op shift mem s).devices = s.devices := by
  rcases aluPath_cases left right inv op shift mem s with ⟨v, he⟩ | ⟨m, v, _, he⟩ | ⟨_, he⟩ <;>
    rw [he]
  case inr.inl => cases m <;> rfl
  all_goals rfl

/-- CTRL writes no device (R250). -/
theorem controlPath_devices (cmp : Bool) (reg : CtrlReg) (bit : BitVec 4) (target : MicroAddr)
    (s : State) : (controlPath cmp reg bit target s).devices = s.devices := by
  unfold controlPath
  split <;> rfl

/-- The status path writes no device (R220). -/
theorem statusPath_devices (st : StatusFields) (s : State) :
    (statusPath st s).devices = s.devices := by
  rw [statusPath_eq]

/-- Device `d` is not ready. -/
def NotReady (d : DevIndex) (s : State) : Prop := (s.device d).ready = false

theorem NotReady.of_devices_eq {d : DevIndex} {s t : State} (h : NotReady d s)
    (he : t.devices = s.devices) : NotReady d t := by
  unfold NotReady State.device at *
  rw [he]
  exact h

/-- A write of one device that leaves its ready flag or clears it (R281, R283). -/
theorem NotReady.setDevice {d x : DevIndex} {s : State} {v : Device} (h : NotReady d s)
    (hv : v.ready = true → (s.device x).ready = true) : NotReady d (s.setDevice x v) := by
  unfold NotReady at *
  rw [device_setDevice]
  split
  · next hd => subst hd; simpa [h] using hv
  · exact h

/-- Of the cases of the protocol only two write a device: OUT its data, CLF its ready flag (R281 to
R284). -/
theorem NotReady.ioCase {d : DevIndex} {s : State} (h : NotReady d s) : NotReady d (ioCase s) := by
  rcases ioCase_cases s with ⟨_, he⟩ | ⟨_, _, he⟩ | ⟨_, _, he⟩ | ⟨_, _, he⟩ <;> rw [he]
  · exact h.setDevice id
  · exact h
  · exact h.of_devices_eq (ioTest_keeps _ s).2
  · exact h.setDevice fun hfalse => absurd hfalse Bool.false_ne_true

/-- Connect runs the protocol or writes the log (R230). -/
theorem NotReady.connect {d : DevIndex} {s : State} (h : NotReady d s) : NotReady d (connect s) := by
  rcases connect_cases s with ⟨_, he⟩ | ⟨_, he⟩ <;> rw [he]
  · exact h.ioCase
  · exact h

/-- The I/O path does to the ready flags what connect does, and may clear them all (R227, R228). -/
theorem NotReady.ioPath {d : DevIndex} {s : State} (h : NotReady d s) (conn rdy di ei : Bool) :
    NotReady d (ioPath conn rdy di ei s) := by
  have hconn : NotReady d (whenSet conn Machine.connect s) := by
    cases conn
    · exact h
    · exact h.connect
  unfold NotReady
  rw [device_ioPath]
  split
  · rfl
  · exact hconn

/-- No decoded word makes a device ready. -/
theorem NotReady.runTerm {d : DevIndex} {s : State} (h : NotReady d s) (m : MicroTerm) :
    NotReady d (runTerm m s) := by
  cases m with
  | op0 left right inv op shift mem =>
    exact h.of_devices_eq (aluPath_devices left right inv op shift mem s)
  | ctrl cmp reg bit target => exact h.of_devices_eq (controlPath_devices cmp reg bit target s)
  | op1 io halt st =>
    show NotReady d (op1Path io halt st s)
    unfold op1Path
    split_ifs
    · exact h
    · exact h.ioPath ..
    · exact h.of_devices_eq (statusPath_devices st s)

/-- A device that is not ready stays so through all that steps and instructions are made of. -/
theorem microClosed_notReady (d : DevIndex) : MicroClosed (NotReady d) where
  runTerm m _ h := h.runTerm m
  setMcr _ _ h := h
  setMpc _ _ h := h
  setGenWord _ _ _ h := h

/-- A device that is ready after what keeps every device not ready was ready before. -/
theorem ready_of_notReady_kept {d : DevIndex} {s t : State} (kept : NotReady d s → NotReady d t)
    (h : (t.device d).ready = true) : (s.device d).ready = true := by
  by_contra hs
  exact Bool.false_ne_true ((kept (Bool.eq_false_of_not_eq_true hs)).symm.trans h)

end Sys2Proof.Machine

namespace Sys2Proof

open Machine Spec

/-- Settles O29: selector 3 is the effect of OUT on the device of DR. -/
theorem connectWritesDeviceData : Obligations.ConnectWritesDeviceData := by
  intro st s heq hsel
  exact ⟨_, exec_connect (m := .OUT) rfl st heq hsel,
    device_of_devices_eq (fun v => { v with data := BitVec.ofNat 8 s.a.toNat }) rfl,
    ioServe_flag .OUT (ioTarget s) s, rfl⟩

/-- Settles O30: selector 2 is the effect of IN on the device of DR. -/
theorem connectReadsDeviceData : Obligations.ConnectReadsDeviceData := by
  intro st s heq hsel
  exact ⟨_, exec_connect (m := .IN) rfl st heq hsel,
    toNat_low_byte_replaced s.a (s.device (ioTarget s)).data,
    ioServe_flag .IN (ioTarget s) s, rfl⟩

/-- Settles O31: selector 1 is the effect of TSF on the device of DR, which leaves A and the devices. -/
theorem connectTestsDeviceReady : Obligations.ConnectTestsDeviceReady := by
  intro st s heq hsel
  obtain ⟨hkeepsA, hkeepsDevices⟩ := ioTest_keeps (ioTarget s) s
  refine ⟨_, exec_connect (m := .TSF) rfl st heq hsel, ?_, fun f => ?_, ?_⟩
  · show (ioTest (ioTarget s) s).cc.toNat = _
    rw [ioTest_cc]
    split
    · exact BitVec.toNat_add ..
    · rfl
  · rw [ioServe_flag, ioEffect, ioTest_flag]
  · rw [ioServe, ioEffect_eq, ioEffect, hkeepsA, hkeepsDevices]
    rfl

/-- Settles O32: selector 0 is the effect of CLF on the device of DR. -/
theorem connectClearsDeviceReady : Obligations.ConnectClearsDeviceReady := by
  intro st s heq hsel
  exact ⟨_, exec_connect (m := .CLF) rfl st heq hsel,
    device_of_devices_eq (fun v => { v with ready := false }) rfl,
    ioServe_flag .CLF (ioTarget s) s, rfl⟩

/-- Settles O51: a device that is not ready stays so through decoded words and macro runs. -/
theorem noInstructionMakesDeviceReady : Obligations.NoInstructionMakesDeviceReady := by
  constructor
  · intro i s t d h
    exact ready_of_notReady_kept fun hs => (microClosed_notReady d).exec hs h
  · intro s t d h
    exact ready_of_notReady_kept fun hs => (microClosed_notReady d).step hs h

end Sys2Proof

/-! PROOF. The symbolic load (spec/46_assembler_loader.md R310 to R319): the cursor of the first pass only
rises and stays in the bank, so the commands stand at distinct cells of the bank, and the second pass gives
each command its word at its own cell. -/

namespace Sys2Proof.Machine

/-! ## The first pass (R310 to R313) -/

/-- What an operator line can do: move the cursor forward inside the bank (R311). -/
theorem scanOperator_cases {size : Nat} {l : Line} {ts : List Text} {st st' : Scan}
    (h : scanOperator size l ts st = .ok st') :
    ∃ n, st.cursor ≤ n ∧ n ≤ size ∧ st' = { st with cursor := n } := by
  unfold scanOperator at h
  split at h
  · split at h
    · split at h
      · cases h
      · next n _ =>
        split at h
        · cases h
        · split at h
          · cases h
          · cases h
            exact ⟨n, by omega, by omega, rfl⟩
    · cases h
  · split at h <;> cases h
  · cases h

/-- What a command line can do: place a word at a cursor inside the bank, with a label or without one
(R312, R316). -/
theorem scanCommand_cases {size : Nat} {l : Line} {ts : List Text} {st st' : Scan}
    (h : scanCommand size l ts st = .ok st') :
    st.cursor < size ∧ ∃ labels body,
      st' = ⟨st.cursor + 1, labels, ⟨l, st.cursor, body⟩ :: st.commands⟩ := by
  unfold scanCommand at h
  split at h
  split at h
  · next hlt =>
    split at h
    · cases h
      exact ⟨hlt, _, _, rfl⟩
    · split at h
      · cases h
      · cases h
        exact ⟨hlt, _, _, rfl⟩
  · cases h

/-- The commands collected stand at distinct cells below the cursor, the newest at the greatest, and the
cursor is in the bank or just past it. -/
def Scan.Placed (size : Nat) (st : Scan) : Prop :=
  st.cursor ≤ size ∧ (st.cursor :: st.commands.map (·.index)).Pairwise (· > ·)

/-- A cursor moved forward inside the bank stays above the commands (R311). -/
theorem Scan.Placed.moveTo {size n : Nat} {st : Scan} (h : st.Placed size) (hge : st.cursor ≤ n)
    (hle : n ≤ size) : Scan.Placed size { st with cursor := n } := by
  obtain ⟨-, hsorted⟩ := h
  obtain ⟨hbelow, hrest⟩ := List.pairwise_cons.1 hsorted
  exact ⟨hle, List.pairwise_cons.2 ⟨fun i hi => Nat.lt_of_lt_of_le (hbelow i hi) hge, hrest⟩⟩

/-- A command placed at the cursor stands above the earlier ones (R316). -/
theorem Scan.Placed.command {size : Nat} {st : Scan} (h : st.Placed size) (hlt : st.cursor < size)
    (labels : List (Text × Nat)) (l : Line) (body : List Text) :
    Scan.Placed size ⟨st.cursor + 1, labels, ⟨l, st.cursor, body⟩ :: st.commands⟩ := by
  obtain ⟨-, hsorted⟩ := h
  obtain ⟨hbelow, -⟩ := List.pairwise_cons.1 hsorted
  refine ⟨hlt, List.pairwise_cons.2 ⟨fun i hi => ?_, hsorted⟩⟩
  rcases List.mem_cons.1 hi with rfl | hi
  · exact Nat.lt_succ_self _
  · exact Nat.lt_succ_of_lt (hbelow i hi)

/-- Every line of the first pass keeps the commands placed. -/
theorem Scan.Placed.scanLine {size : Nat} {l : Line} {st st' : Scan} (h : st.Placed size)
    (hscan : scanLine size l st = .ok st') : st'.Placed size := by
  unfold Machine.scanLine at hscan
  split at hscan
  · cases hscan
    exact h
  · obtain ⟨n, hge, hle, rfl⟩ := scanOperator_cases hscan
    exact h.moveTo hge hle
  · obtain ⟨hlt, labels, body, rfl⟩ := scanCommand_cases hscan
    exact h.command hlt labels l body

/-- The whole first pass keeps the commands placed. -/
theorem Scan.Placed.scanLines {size : Nat} {ls : List Line} {st st' : Scan} (h : st.Placed size)
    (hscan : scanLines size ls st = .ok st') : st'.Placed size := by
  induction ls generalizing st with
  | nil =>
    cases hscan
    exact h
  | cons l rest ih =>
    rw [Machine.scanLines] at hscan
    split at hscan
    · cases hscan
    · next hline => exact ih (h.scanLine hline) hscan

/-- The scan starts at cell 0 with no command (R311). -/
theorem Scan.placed_start (size : Nat) : Scan.Placed size ⟨0, [], []⟩ :=
  ⟨Nat.zero_le size, List.pairwise_singleton _ _⟩

/-! ## The second pass (R314 to R316) -/

/-- The second pass gives every command one cell, at the command's own index. -/
theorem map_fst_of_resolveCommands {labels : List (Text × Nat)} {cs : List Command} {cells : Cells}
    (h : resolveCommands labels cs = .ok cells) : cells.map (·.1) = cs.map (·.index) := by
  induction cs generalizing cells with
  | nil =>
    cases h
    rfl
  | cons c rest ih =>
    rw [resolveCommands] at h
    split at h
    · cases h
    · split at h
      · cases h
      · split at h
        · cases h
        · next hrest =>
          cases h
          exact congrArg (c.index :: ·) (ih hrest)

/-- The cells of a symbolic image stand in rising order inside the bank (R316). -/
theorem symbolicImage_rising {size : Nat} {t : Text} {cells : Cells}
    (h : symbolicImage size t = .ok cells) :
    (cells.map (·.1)).Pairwise (· < ·) ∧ ∀ c ∈ cells, c.1 < size := by
  unfold symbolicImage at h
  split at h
  · cases h
  · next st hscan =>
    obtain ⟨hcursor, hsorted⟩ := (Scan.placed_start size).scanLines hscan
    obtain ⟨hbelow, hrest⟩ := List.pairwise_cons.1 hsorted
    have hindex : cells.map (·.1) = (st.commands.map (·.index)).reverse := by
      rw [map_fst_of_resolveCommands h, List.map_reverse]
    refine ⟨hindex ▸ List.pairwise_reverse.2 hrest, fun c hc => ?_⟩
    have hmem : c.1 ∈ (st.commands.map (·.index)).reverse := hindex ▸ List.mem_map_of_mem hc
    exact Nat.lt_of_lt_of_le (hbelow c.1 (List.mem_reverse.1 hmem)) hcursor

/-! ## The load (R317, R318) -/

/-- A symbolic load answers exactly the state with its image's cells placed. -/
theorem loadSymbolic_eq_ok_iff {b : Bank} {t : Text} {s u : State} :
    loadSymbolic b t s = .ok u ↔
      ∃ cells, symbolicImage b.size t = .ok cells ∧ placeCells b cells s = some u := by
  unfold loadSymbolic
  cases symbolicImage b.size t with
  | error e => simp
  | ok cells => cases hplace : placeCells b cells s <;> simp [hplace]

end Sys2Proof.Machine

namespace Sys2Proof

open Machine

/-- Settles O57: the cells of the image rise, so that no later cell has the index of an earlier one, and
placing them writes each. -/
theorem symbolicLoadWritesItsImage : Obligations.SymbolicLoadWritesItsImage := by
  intro b text s u hwf hload
  obtain ⟨cells, himage, hplace⟩ := loadSymbolic_eq_ok_iff.1 hload
  obtain ⟨hrising, hin⟩ := symbolicImage_rising himage
  obtain ⟨v, hv, -, hframe, hkeep, hput⟩ := placeCells_inside b cells s hwf hin
  obtain rfl : v = u := Option.some.inj (hv.symm.trans hplace)
  refine ⟨cells, himage, fun c hc => ⟨hin c hc, ?_⟩, fun other i hne => ?_, hframe⟩
  · obtain ⟨before, after, hsplit⟩ := List.append_of_mem hc
    rw [hsplit, List.map_append, List.map_cons] at hrising
    obtain ⟨hafter, -⟩ := List.pairwise_cons.1 (List.pairwise_append.1 hrising).2.1
    exact hput before c after hsplit fun d hd => (hafter d.1 (List.mem_map_of_mem hd)).ne'
  · refine hkeep other i (hne.imp_right fun habsent c hc hi => ?_)
    exact habsent c.2 (hi ▸ hc)

/-- Settles O58: the image is ISZ 002 at 5 and BR 006 at 6, the label being bound to 6 (R313), and the load
places it in an empty bank. -/
theorem sourceLoadExample : Obligations.SourceLoadExample := by
  have himage : symbolicImage Bank.gen.size "$pos 5\nISZ 2 $then\nBR %then\n".toList =
      .ok [(5, 0x0002#16), (6, 0xC006#16)] := by decide +kernel
  exact ⟨_, loadSymbolic_eq_ok_iff.2 ⟨_, himage, rfl⟩, rfl⟩

end Sys2Proof

/-! PROOF. The card load (spec/46_assembler_loader.md R320 to R322): a line is accepted exactly when it is
blank or says a card in range, and the image is that of the cards added one after the other. -/

namespace Sys2Proof.Machine

open Spec

/-! ## One line (R320, R321) -/

/-- The cell a card writes (R320). -/
def cardCell (c : Card) : Nat × Word := (c.address, BitVec.ofNat 16 c.value)

/-- The image with one more card: its cell last, and its address the start where it has a plus (R322). -/
def CardImage.add (image : CardImage) (c : Card) : CardImage :=
  ⟨image.cells ++ [cardCell c], if c.plus then some c.address else image.start⟩

/-- A sign is the one a card writes exactly when both or neither mean a plus (R320). -/
theorem eq_sign_iff {x : Char} (h : x = '+' ∨ x = '-') (plus : Bool) :
    x = (if plus then '+' else '-') ↔ (x == '+') = plus := by
  rcases h with rfl | rfl <;> cases plus <;> decide

/-- A line of two tokens is accepted exactly when it says a card in range (R320, R321). -/
theorem cardLine_eq_ok_iff {b : Bank} {l : Line} {address value : Text} {r : Nat × Word × Bool}
    (htokens : tokens l.text = [address, value]) :
    cardLine b.size l address value = .ok r ↔
      ∃ c, IsCard l.text c ∧ c.inRange b ∧ r = (c.address, BitVec.ofNat 16 c.value, c.plus) := by
  constructor
  · intro h
    unfold cardLine at h
    split at h
    · cases h
    · next i x digits haddress =>
      split at h
      · next hsign =>
        split at h
        · cases h
        · next n hdigits =>
          split at h
          · cases h
          · next hn =>
            split at h
            · next hi =>
              cases h
              have hx : x = if x == '+' then '+' else '-' := (eq_sign_iff hsign _).2 rfl
              exact ⟨⟨i, x == '+', n⟩, ⟨address, digits, hx ▸ htokens, haddress, hdigits⟩,
                ⟨hi, Nat.le_of_not_lt hn⟩, rfl⟩
            · cases h
      · cases h
    · cases h
  · rintro ⟨c, ⟨address', digits, hcard, haddress, hdigits⟩, ⟨hi, hn⟩, rfl⟩
    obtain ⟨rfl, rfl⟩ : address = address' ∧ value = _ := by simpa [htokens] using hcard
    have hvalue : ¬ 0xFFFF < c.value := Nat.not_lt.2 hn
    cases hplus : c.plus <;> simp [cardLine, haddress, hdigits, hi, hvalue]

/-- Reading cards from a line on: a blank line is skipped, a card in range is added to the image, and no
other line is accepted. -/
theorem cardLines_cons_eq_ok_iff {b : Bank} {l : Line} {rest : List Line} {acc image : CardImage} :
    cardLines b.size (l :: rest) acc = .ok image ↔
      (tokens l.text = [] ∧ cardLines b.size rest acc = .ok image) ∨
      ∃ c, IsCard l.text c ∧ c.inRange b ∧ cardLines b.size rest (acc.add c) = .ok image := by
  rw [cardLines]
  split
  · next hblank => simp [hblank, IsCard]
  · next address value htokens =>
    constructor
    · intro h
      split at h
      · cases h
      · next hline =>
        obtain ⟨c, hc, hin, hr⟩ := (cardLine_eq_ok_iff htokens).1 hline
        cases hr
        exact .inr ⟨c, hc, hin, h⟩
    · rintro (⟨hblank, -⟩ | ⟨c, hc, hin, h⟩)
      · cases htokens.symm.trans hblank
      · rw [(cardLine_eq_ok_iff htokens).2 ⟨c, hc, hin, rfl⟩]
        exact h
  · next hblank hcard =>
    refine iff_of_false nofun ?_
    rintro (⟨h, -⟩ | ⟨c, ⟨address, digits, h, -⟩, -⟩)
    · exact hblank h
    · exact hcard _ _ h

/-! ## All lines (R320, R322) -/

/-- A text is accepted exactly when its lines are those of cards in range, and the image is then that of
the cards added in order. -/
theorem cardLines_eq_ok_iff {b : Bank} {ls : List Line} {acc image : CardImage} :
    cardLines b.size ls acc = .ok image ↔
      ∃ cards, CardsOf ls cards ∧ (∀ c ∈ cards, c.inRange b) ∧
        image = cards.foldl CardImage.add acc := by
  induction ls generalizing acc with
  | nil => simp [cardLines, CardsOf, eq_comm]
  | cons l rest ih =>
    rw [cardLines_cons_eq_ok_iff]
    simp only [ih, CardsOf]
    constructor
    · rintro (⟨hblank, cards, hcards, hin, rfl⟩ | ⟨c, hc, hcin, later, hlater, hin, rfl⟩)
      · exact ⟨cards, .inl ⟨hblank, hcards⟩, hin, rfl⟩
      · exact ⟨c :: later, .inr ⟨c, later, rfl, hc, hlater⟩, List.forall_mem_cons.2 ⟨hcin, hin⟩, rfl⟩
    · rintro ⟨cards, ⟨hblank, hcards⟩ | ⟨c, later, rfl, hc, hlater⟩, hin, rfl⟩
      · exact .inl ⟨hblank, cards, hcards, hin, rfl⟩
      · obtain ⟨hcin, hin⟩ := List.forall_mem_cons.1 hin
        exact .inr ⟨c, hc, hcin, later, hlater, hin, rfl⟩

/-- The image of cards holds their cells in order. -/
theorem cells_foldl_add (cards : List Card) (acc : CardImage) :
    (cards.foldl CardImage.add acc).cells = acc.cells ++ cards.map cardCell := by
  induction cards generalizing acc with
  | nil => simp
  | cons c rest ih => simp [ih, CardImage.add]

/-- Cards without a plus leave the start (R322). -/
theorem start_foldl_add_of_no_plus {cards : List Card} (h : ∀ c ∈ cards, c.plus = false)
    (acc : CardImage) : (cards.foldl CardImage.add acc).start = acc.start := by
  induction cards generalizing acc with
  | nil => rfl
  | cons c rest ih =>
    obtain ⟨hc, hrest⟩ := List.forall_mem_cons.1 h
    rw [List.foldl_cons, ih hrest]
    simp [CardImage.add, hc]

/-- The start is the address of the last card with a plus (R322). -/
theorem start_foldl_add_of_last_plus {c : Card} (hc : c.plus = true) {after : List Card}
    (h : ∀ d ∈ after, d.plus = false) (before : List Card) (acc : CardImage) :
    ((before ++ c :: after).foldl CardImage.add acc).start = some c.address := by
  rw [List.foldl_append, List.foldl_cons, start_foldl_add_of_no_plus h]
  simp [CardImage.add, hc]

/-! ## The load (R322) -/

/-- The state with CC at the start of an image, where it has one (R322). -/
def startAt (start : Option Nat) (s : State) : State :=
  match start with
  | none => s
  | some i => s.setCc (BitVec.ofNat 16 i)

/-- CC holds the low 11 bits of the start (R322). -/
theorem toNat_startAt_cc (i : Nat) (s : State) : (startAt (some i) s).cc.toNat = i % 2048 := by
  simp only [startAt, State.setCc_cc, BitVec.toNat_setWidth, BitVec.toNat_ofNat]
  omega

/-- The start changes no cell. -/
theorem hostGetCell_startAt (b : Bank) (i : Nat) (start : Option Nat) (s : State) :
    hostGetCell b i (startAt start s) = hostGetCell b i s := by
  cases start <;> rfl

/-- The start changes CC alone. -/
theorem startAt_eq (start : Option Nat) (s : State) :
    startAt start s = { s with cc := (startAt start s).cc } := by
  cases start <;> rfl

/-- A card load answers exactly the state with its image's cells placed and CC at its start. -/
theorem loadCard_eq_ok_iff {b : Bank} {t : Text} {s u : State} :
    loadCard b t s = .ok u ↔ ∃ image v, cardImage b.size t = .ok image ∧
      placeCells b image.cells s = some v ∧ startAt image.start v = u := by
  unfold loadCard
  cases cardImage b.size t with
  | error e => simp
  | ok image =>
    cases hplace : placeCells b image.cells s with
    | none => simp [hplace]
    | some v => cases hstart : image.start <;> simp [hplace, hstart, startAt]

end Sys2Proof.Machine

namespace Sys2Proof

open Machine Spec

/-- Settles O59: the accepted texts are those of cards in range, whose cells are placed in order before CC
takes the start of the image. -/
theorem cardLoadSetsCommandCounter : Obligations.CardLoadSetsCommandCounter := by
  intro b text s hwf
  constructor
  · intro u hload
    obtain ⟨image, -, himage, -⟩ := loadCard_eq_ok_iff.1 hload
    obtain ⟨cards, hcards, hin, -⟩ := cardLines_eq_ok_iff.1 himage
    exact ⟨cards, hcards, hin⟩
  · intro cards hcards hin
    have himage : cardImage b.size text = .ok (cards.foldl CardImage.add ⟨[], none⟩) :=
      cardLines_eq_ok_iff.2 ⟨cards, hcards, hin, rfl⟩
    obtain ⟨v, hv, -, hframe, hkeep, hput⟩ := placeCells_inside b (cards.map cardCell) s hwf
      (List.forall_mem_map.2 fun c hc => (hin c hc).1)
    rw [← List.nil_append (cards.map _), ← cells_foldl_add cards ⟨[], none⟩] at hv
    refine ⟨_, loadCard_eq_ok_iff.2 ⟨_, v, himage, hv, rfl⟩, ?_, fun hplus => ?_, ?_, ?_, ?_⟩
    · rintro before c after rfl hc hafter
      rw [start_foldl_add_of_last_plus hc hafter, toNat_startAt_cc]
    · rw [start_foldl_add_of_no_plus hplus, hframe]
      rfl
    · rintro before c after rfl hafter
      rw [hostGetCell_startAt]
      exact hput (before.map cardCell) (cardCell c) (after.map cardCell) (by simp)
        (List.forall_mem_map.2 hafter)
    · intro other i hne
      rw [hostGetCell_startAt]
      exact hkeep other i (hne.imp_right List.forall_mem_map.2)
    · rw [startAt_eq, hframe]

end Sys2Proof

/-! PROOF. Faults at the level of the step (spec/60_exceptions.md R341, R343): what a faulting word leaves,
that a marked state stops, and that mark and returned outcome agree after every step. -/

namespace Sys2Proof.Machine

/-- A step from an unmarked state whose word is not well-formed: the fetch into MCR and the raised fault
(R343), with nothing else changed (D34). -/
theorem step_of_not_wellFormed {s : State} (hmark : s.faultMark = none)
    (hwf : (decodeMicro (s.microWord s.mpc)).wellFormed = false) :
    step s = .next ((fetched s).raise (.unlistedField (s.microWord s.mpc) s.mpc)) := by
  rw [step_of_unmarked hmark, runTerm_of_not_wellFormed hwf]
  rfl

/-- A marked state stops with the reason of its mark (R341). -/
theorem step_of_marked {s : State} {f : Fault} (hmark : s.faultMark = some f) :
    step s = .fault f := by
  rw [step, hmark]

/-- A state that has a next step carries no mark (R341). -/
theorem faultMark_of_step_next {s t : State} (hstep : step s = .next t) : s.faultMark = none := by
  cases hmark : s.faultMark with
  | none => rfl
  | some f => rw [step_of_marked hmark] at hstep; cases hstep

/-- No well-formed word returns Fault: a control word returns Jumped or Success (R250), any other Success
or Halted (R261). -/
theorem runTerm_outcome_ne_fault {m : MicroTerm} (hwf : (classify m).wellFormed = true) (s : State) :
    (runTerm m s).outcome ≠ some .fault := by
  by_cases hctrl : ∃ cmp reg bit target, classify m = .mcCtrl cmp reg bit target
  · obtain ⟨cmp, reg, bit, target, hclass⟩ := hctrl
    rw [runTerm_of_classify_eq_mcCtrl hclass]
    split_ifs <;> simp
  · have hother : ∀ cmp reg bit target, classify m ≠ .mcCtrl cmp reg bit target :=
      fun cmp reg bit target hclass => hctrl ⟨cmp, reg, bit, target, hclass⟩
    rcases (runTerm_returns hwf hother s).2 with ho | ho <;> simp [ho]

/-- A step that returned Fault leaves a mark (R341): the converse of `outcome_of_step_marked`. -/
theorem marked_of_step_fault {s t : State} (hstep : step s = .next t)
    (ho : t.outcome = some .fault) : t.faultMark.isSome = true := by
  have hunmarked := faultMark_of_step_next hstep
  cases hwf : (decodeMicro (s.microWord s.mpc)).wellFormed with
  | false =>
    rw [step_of_not_wellFormed hunmarked hwf] at hstep
    cases hstep
    rfl
  | true =>
    rw [step_of_unmarked hunmarked] at hstep
    cases hstep
    rw [advance_outcome] at ho
    exact absurd ho (runTerm_outcome_ne_fault hwf (fetched s))

end Sys2Proof.Machine

namespace Sys2Proof

open Machine

/-- Settles O11: the faulting step is the fetch and `raise`, which write MCR, the mark and the outcome. -/
theorem faultingStepLeavesOnlyTheMark : Obligations.FaultingStepLeavesOnlyTheMark :=
  ⟨fun _ hmark hwf => step_of_not_wellFormed hmark hwf, fun _ _ hmark => step_of_marked hmark⟩

/-- Settles O12: a mark comes from a returned Fault, and a returned Fault leaves a mark. -/
theorem markIsSetExactlyByFault : Obligations.MarkIsSetExactlyByFault := by
  intro s t hstep
  exact ⟨outcome_of_step_marked hstep, marked_of_step_fault hstep⟩

end Sys2Proof

/-! PROOF. Construction and reset_memory (spec/70_reset_and_hazards.md R370 to R373): the reload of
microcode memory from an image, cell by cell, and the state a new machine is in. -/

namespace Sys2Proof.Machine

/-- The last pair of an image is stored last (R371). -/
theorem microReload_concat (image : List (MicroAddr × Word)) (p : MicroAddr × Word) :
    microReload (image ++ [p]) = microStore (microReload image) p.1 p.2 :=
  List.foldl_concat ..

/-- Microcode memory without an image is zero (R371). -/
theorem microLookup_microReload_nil (a : MicroAddr) : microLookup (microReload []) a = 0#16 :=
  Vector.getElem_replicate _

/-- The pairs for other addresses that end an image leave a cell as the pairs before them made it. -/
theorem microLookup_microReload_append_of_ne (before : List (MicroAddr × Word))
    {after : List (MicroAddr × Word)} {a : MicroAddr} (h : ∀ p ∈ after, p.1 ≠ a) :
    microLookup (microReload (before ++ after)) a = microLookup (microReload before) a := by
  induction after using List.reverseRecOn with
  | nil => rw [List.append_nil]
  | append_singleton rest p ih =>
    have hp : a ≠ p.1 := (h p (by simp)).symm
    rw [← List.append_assoc, microReload_concat, microLookup_microStore, if_neg hp]
    exact ih fun q hq => h q (List.mem_append_left _ hq)

/-- The contents given cell by cell at construction are those of the reload pair by pair (R370, R371). -/
theorem microReload_eq_bootCells (image : List (MicroAddr × Word)) :
    microReload image = bootCells image := by
  refine microCells_ext fun a => ?_
  rw [microLookup_bootCells]
  induction image using List.reverseRecOn with
  | nil => exact microLookup_microReload_nil a
  | append_singleton rest p ih =>
    have hcell : bootCell (rest ++ [p]) a.toNat =
        if p.1.toNat = a.toNat then p.2 else bootCell rest a.toNat := List.foldl_concat ..
    rw [microReload_concat, microLookup_microStore, ih, hcell]
    simp only [BitVec.toNat_inj, eq_comm]

/-- reset_memory changes nothing in a new machine (R370). -/
theorem resetMemory_reset : resetMemory State.reset = State.reset := by
  rw [resetMemory, microReload_eq_bootCells]
  rfl

/-- Every flag of a new machine is 0 (R370). -/
theorem reset_flag (f : Flag) : State.reset.flag f = false :=
  BitVec.getLsbD_zero

/-- Every device of a new machine has data 0 and is not ready (R370). -/
theorem reset_device (d : DevIndex) : State.reset.device d = ⟨0#8, false⟩ :=
  Vector.getElem_replicate _

end Sys2Proof.Machine

namespace Sys2Proof

open Machine

/-- Settles O44: the pairs after the last one for an address leave its cell, an address without a pair
keeps the zero, and no field but the two banks is written. -/
theorem resetMemoryReloadsBanks : Obligations.ResetMemoryReloadsBanks := by
  refine ⟨fun before after a v hafter => ?_, fun image a himage => ?_,
    fun s => ⟨rfl, fun i => genLookup_nil i.toNat, rfl, rfl⟩⟩
  · rw [List.append_cons, microLookup_microReload_append_of_ne _ hafter, microReload_concat,
      microLookup_microStore, if_pos rfl]
  · rw [← List.nil_append image, microLookup_microReload_append_of_ne [] himage,
      microLookup_microReload_nil]

/-- Settles O43: the zeros of construction, and the reload that leaves the banks as they are. -/
theorem constructionState : Obligations.ConstructionState :=
  ⟨fun r => by cases r <;> rfl, reset_flag, reset_device, rfl, rfl, resetMemory_reset, rfl⟩

/-- Settles O45: empty general memory is canonical, the empty log fits, and neither a mark nor an outcome
nor a flag is there. -/
theorem constructionMeetsInvariants : Obligations.ConstructionMeetsInvariants := by
  refine ⟨⟨reset_genWf, Nat.zero_le _⟩, ?_, rfl, reset_flag .constantZero⟩
  simp [MarkAgrees, State.reset]

end Sys2Proof
